-- ==== Sys2Proof/Word.lean ====
section
/-! DEFINITION. The plain words of the block (00_scope.md rules R8, R9): bytes, 32-bit words,
22-bit offsets and bit strings. Every number is unsigned; no quantity of the block is signed. -/

namespace Sys2Proof

/-- A byte: bits 7 to 0 (R8). One symbol is one byte (R7, SYMBOL_BITS = 8). -/
abbrev Byte := BitVec 8

/-- A 32-bit word, the width of every register and of bus data (R7, R8). -/
abbrev Word := BitVec 32

/-- A byte offset from BASE, 22 bits (R7, R75). -/
abbrev Offset := BitVec 22

/-- A bit string, bit 0 first (R9). -/
abbrev Bits := List Bool

/-- A byte string, byte 0 first (R9). -/
abbrev Bytes := List Byte

end Sys2Proof
end

