-- ==== Sys2Proof/Machine/Errors.lean ====
section
/-! DEFINITION. The command errors and what each records (60_exceptions.md rule R290). -/

namespace Sys2Proof.Machine

/-- The kinds of command error (R290). -/
inductive ErrorKind where
  | emptyInput
  | headerParse
  | truncatedStream
  | invalidBit
  | capacity
  | illegalCommand
  deriving DecidableEq, Repr

/-- The error code of a kind, ERROR.CODE (R290). -/
def ErrorKind.code : ErrorKind → Byte
  | .emptyInput => 0x01
  | .headerParse => 0x02
  | .truncatedStream => 0x03
  | .invalidBit => 0x04
  | .capacity => 0x10
  | .illegalCommand => 0x11

/-- A raised error: its kind and the value for ERR_INFO. -/
structure CmdError where
  kind : ErrorKind
  info : Word
  deriving DecidableEq, Repr

/-- `raise HEADER_PARSE(pos)` (R292). -/
def headerParseAt (pos : Nat) : CmdError := ⟨.headerParse, BitVec.ofNat 32 pos⟩

/-- `raise INVALID_BIT(pos)` (R294). -/
def invalidBitAt (pos : Nat) : CmdError := ⟨.invalidBit, BitVec.ofNat 32 pos⟩

/-- `raise TRUNCATED_STREAM(bit)` (R293). -/
def truncatedAt (bit : Nat) : CmdError := ⟨.truncatedStream, BitVec.ofNat 32 bit⟩

/-- `raise CAPACITY(info)` (R295). -/
def capacityError (info : Nat) : CmdError := ⟨.capacity, BitVec.ofNat 32 info⟩

/-- `raise EMPTY_INPUT(0)` (R291). -/
def emptyInputError : CmdError := ⟨.emptyInput, 0⟩

/-- `raise ILLEGAL_COMMAND(w)` (R296). -/
def illegalCommandError (w : Word) : CmdError := ⟨.illegalCommand, w⟩

end Sys2Proof.Machine
end

