-- ==== Sys2Proof/Machine/Tables.lean ====
section
/-! DEFINITION. The entries of the result tables (10_state.md rules R51, R52) and the words their
windows show. -/

namespace Sys2Proof.Machine

/-- An entry of the CODE table (R51): the length CLEN (0 for a symbol without a code) and the field
CBITS, whose most significant bit is code bit 0. -/
structure CodeEntry where
  clen : BitVec 8
  cbits : BitVec 256
  deriving DecidableEq, Repr, Inhabited

/-- The entry of a symbol without a code (R212). -/
def CodeEntry.absent : CodeEntry := ⟨0, 0⟩

/-- The entry that stores a code: bits at or beyond its length are 0 (R51). -/
def CodeEntry.ofBits (c : Bits) : CodeEntry :=
  ⟨BitVec.ofNat 8 c.length, BitVec.ofFnBE fun j : Fin 256 => c.getD j.val false⟩

/-- The code an entry stores. -/
def CodeEntry.bits (e : CodeEntry) : Bits :=
  (List.range e.clen.toNat).map e.cbits.getMsbD

/-- The CODE_LEN word (R51): bits [7:0] are CLEN, the rest 0. -/
def CodeEntry.lenWord (e : CodeEntry) : Word :=
  e.clen.setWidth 32

/-- The CODE_BITS word `w` (R51): its bit `31 - t` is code bit `32 w + t`, and 0 at or beyond CLEN. -/
def CodeEntry.bitsWord (e : CodeEntry) (w : Fin 8) : Word :=
  BitVec.ofFnBE fun t : Fin 32 =>
    decide (32 * w.val + t.val < e.clen.toNat) && e.cbits.getMsbD (32 * w.val + t.val)

/-- An entry of the NODE arena (R52). -/
structure Node where
  nfreq : Word
  valid : Bool
  leaf : Bool
  left : BitVec 9
  right : BitVec 9
  sym : Byte
  deriving DecidableEq, Repr, Inhabited

/-- The entry at an index at or above NODE_COUNT: both words read 0 (R52). -/
def Node.unused : Node := ⟨0, false, false, 0, 0, 0⟩

/-- A leaf (R190). -/
def Node.ofSymbol (freq : Word) (s : Byte) : Node := ⟨freq, true, true, 0, 0, s⟩

/-- An internal node (R193). -/
def Node.internal (freq : Word) (left right : Nat) : Node :=
  ⟨freq, true, false, BitVec.ofNat 9 left, BitVec.ofNat 9 right, 0⟩

/-- Word 0 of a node (R52). -/
def Node.word0 (n : Node) : Word := n.nfreq

/-- Word 1 of a node (R52): VALID [31], LEAF [30], 0 [29:26], RIGHT [25:17], LEFT [16:8], SYM [7:0]. -/
def Node.word1 (n : Node) : Word :=
  ((BitVec.ofBool n.valid).setWidth 32 <<< 31) ||| ((BitVec.ofBool n.leaf).setWidth 32 <<< 30) |||
    (n.right.setWidth 32 <<< 17) ||| (n.left.setWidth 32 <<< 8) ||| n.sym.setWidth 32

end Sys2Proof.Machine
end

