-- ==== Sys2Proof/Config.lean ====
section
/-! DEFINITION. What an implementation fixes (00_scope.md rule R7) and the free values: constants
without a body, of which no proof can know anything. -/

namespace Sys2Proof

/-- The open parameters IN_CAP and OUT_CAP (R7), each as a number of 32-bit words less one, so that
its constraint (a multiple of 4, from 4 to 2^20) holds by its type. -/
structure Params where
  inWords : Fin 262144
  outWords : Fin 262144
  deriving DecidableEq, Repr, Inhabited

/-- IN_CAP, the bytes of the IN buffer (R7, R48). -/
def Params.inCap (p : Params) : Nat := 4 * (p.inWords.val + 1)

/-- OUT_CAP, the bytes of the OUT buffer (R7, R48). -/
def Params.outCap (p : Params) : Nat := 4 * (p.outWords.val + 1)

/-- The parameters of the instance that leaves reset: OPEN (R7, U1; log 1). -/
opaque Config.params : Params

/-- BASE, the host address of offset 0: OPEN, and invisible to the block (R7, R75, U2; log 16). -/
opaque Config.base : Nat

/-- The host address of an offset of the block (R7, R75). -/
def Config.hostAddress (off : Offset) : Nat := Config.base + off.toNat

/-- FREE VALUE. One byte of `draw()` (R10), for the n-th value drawn: window and OUT bytes that are
not valid, and SLVERR read data (U5 to U7; log 4). -/
opaque Config.drawByte : Nat → Byte

/-- FREE VALUE. The IN byte at an index that was not written since reset number `epoch`: arbitrary,
but the same at every read (R53, C10, U4; log 5). -/
opaque Config.initialIn (epoch : Nat) : Nat → Byte

/-- FREE VALUE. How many host events are still taken between an acceptance and the engine step: any
finite number (R146, R330, U3; log 3). -/
opaque Config.engineDelay : Nat → Nat

/-- FREE VALUE. The FREQ table's unspecified contents after reset or an error (R301, R320; log 6). -/
opaque Config.freeFreq : Nat → Vector Word 256

/-- FREE VALUE. The CODE table's unspecified contents after reset or an error (R301, R320; log 6). -/
opaque Config.freeCode : Nat → Vector Machine.CodeEntry 256

/-- FREE VALUE. The NODE arena's unspecified contents after reset or an error (R301, R320; log 6). -/
opaque Config.freeNode : Nat → Vector Machine.Node 511

end Sys2Proof
end

