-- ==== Sys2Proof/Syntax.lean ====
section
/-! DEFINITION. The instructions of the block, one constructor per row of the opcode table: four
command words (30_encoding.md rules R100 to R102) and two host transactions (rule R104). -/

namespace Sys2Proof

/-- The rows of the opcode table. -/
inductive Instr where
  /-- ENCODE, command word 0x00000001 (R150). -/
  | encode
  /-- DECODE, command word 0x00000002 (R151). -/
  | decode
  /-- CLEAR, command word 0x00000003 (R152). -/
  | clear
  /-- ILLEGAL, any other command word (R102, R153). -/
  | illegal (w : Word)
  /-- READ32, the host transaction (READ32, off) (R140). -/
  | read32 (off : Offset)
  /-- WRITE32, the host transaction (WRITE32, off, data) (R141). -/
  | write32 (off : Offset) (data : Word)
  deriving DecidableEq, Repr

/-- A host transaction record (R104): the kind, the offset, and the data of a WRITE32. -/
inductive Txn where
  | read32 (off : Offset)
  | write32 (off : Offset) (data : Word)
  deriving DecidableEq, Repr

/-- The instruction a host transaction is. -/
def Txn.instr : Txn → Instr
  | .read32 off => .read32 off
  | .write32 off data => .write32 off data

end Sys2Proof
end

