-- ==== Sys2Proof/Machine/State.lean ====
section
/-! DEFINITION. The state of one block instance (10_state.md rules R30, R33, R34, R50 to R54, R59),
the bus side it answers on (30_encoding.md rule R104), and the state after reset
(70_reset_and_hazards.md rule R320). -/

namespace Sys2Proof.Machine

/-- The engine phase (R33). -/
inductive Phase where
  | idle
  /-- The command word `w` is accepted and not completed. -/
  | busy (w : Word)
  deriving DecidableEq, Repr

/-- The response code of a host transaction (R104). -/
inductive Resp where
  | okay
  | slverr
  deriving DecidableEq, Repr

/-- The block's answer to a host transaction (R104); only a READ32 has data. -/
structure Response where
  resp : Resp
  rdata : Option Word
  deriving DecidableEq, Repr

/-- What arrives from outside the block: a host transaction (R104), or the platform's reset (R321). -/
inductive Event where
  | txn (t : Txn)
  | reset
  deriving DecidableEq, Repr

/-- A byte buffer: (index, byte) cells, indices strictly rising. An index that is not listed has no
value of its own (log 5, log 6). -/
abbrev Memory := List Host.Cell

/-- The state. The fields from `pending` on are the bus side and the model's own (log 2 to log 7). -/
structure State where
  /-- IN_CAP and OUT_CAP: configuration, which no step changes (R30; log 1). -/
  params : Params
  phase : Phase
  status : Word
  error : Word
  errInfo : Word
  inLen : Word
  outLen : Word
  padLen : Word
  hdrLen : Word
  symCount : Word
  nodeCount : Word
  root : Word
  bitCount : Word
  freq : Vector Word 256
  code : Vector CodeEntry 256
  node : Vector Node 511
  inBuf : Memory
  outBuf : Memory
  /-- The sticky mark of host protocol violations (R303). -/
  hostFault : Bool
  /-- The answer to the last transaction (R104). -/
  response : Option Response
  /-- The host's and the platform's coming events, oldest first (log 2). -/
  pending : List Event
  /-- How many events are still taken before the engine step (log 3). -/
  engineWait : Nat
  /-- How many free values have been drawn (log 4). -/
  draws : Nat
  /-- Which reset the never-written IN bytes belong to (log 5). -/
  epoch : Nat
  deriving DecidableEq, Repr

/-- No behaviour of the block stops the machine (93, R331): a command error is an outcome (R290), a
host protocol violation gets SLVERR and sets `hostFault` (R303). So no step raises a fault, and
there is no constructor (log 8). -/
inductive Fault
  deriving DecidableEq, Repr

/-- Why an instruction has no meaning. -/
inductive Refusal where
  /-- Raised only by an arm of `exec` whose instruction is not modelled; no arm is left. Safe. -/
  | notModelled (mnemonic : String)
  deriving DecidableEq, Repr

/-- The state after a reset (R320): every register 0, phase IDLE, no host fault, tables and buffers
unspecified. `draws` counts on, so that no free value comes twice; the events still to come stay. -/
def State.afterReset (params : Params) (epoch draws : Nat) (pending : List Event) : State where
  params := params
  phase := .idle
  status := 0
  error := 0
  errInfo := 0
  inLen := 0
  outLen := 0
  padLen := 0
  hdrLen := 0
  symCount := 0
  nodeCount := 0
  root := 0
  bitCount := 0
  freq := Config.freeFreq draws
  code := Config.freeCode draws
  node := Config.freeNode draws
  inBuf := []
  outBuf := []
  hostFault := false
  response := none
  pending := pending
  engineWait := 0
  draws := draws + 1
  epoch := epoch

/-- The machine right after its first reset. -/
def State.reset : State := State.afterReset Config.params 0 0 []

end Sys2Proof.Machine
end

