-- ==== Sys2Proof/Machine/Flags.lean ====
section
/-! DEFINITION. The block's flags, the bits of STATUS (10_state.md rules R36, R56), and every rule
that writes them: acceptance (R145), the two completions (R148, R301), and the commands' own valid
bits (R150 to R152). -/

namespace Sys2Proof.Machine

/-- STATUS.BUSY, bit 0. -/
def statusBusy (st : Word) : Bool := st.getLsbD 0

/-- STATUS.DONE, bit 1. -/
def statusDone (st : Word) : Bool := st.getLsbD 1

/-- STATUS.ERR, bit 2. -/
def statusErr (st : Word) : Bool := st.getLsbD 2

/-- STATUS.OUT_VALID, bit 3. -/
def statusOutValid (st : Word) : Bool := st.getLsbD 3

/-- STATUS.FREQ_VALID, bit 4. -/
def statusFreqValid (st : Word) : Bool := st.getLsbD 4

/-- STATUS.TREE_VALID, bit 5. -/
def statusTreeValid (st : Word) : Bool := st.getLsbD 5

/-- STATUS.CODE_VALID, bit 6. -/
def statusCodeValid (st : Word) : Bool := st.getLsbD 6

/-- STATUS.LAST_CMD, bits [15:8]. -/
def statusLastCmd (st : Word) : Byte := st.extractLsb' 8 8

/-- A word with one bit set or cleared. -/
def setBit (w : Word) (i : Nat) (b : Bool) : Word :=
  if b then w ||| (1#32 <<< i) else w &&& ~~~(1#32 <<< i)

/-- STATUS right after the command word `w` is accepted (R145): BUSY 1, LAST_CMD `w[7:0]`, every
other bit 0. -/
def acceptStatus (w : Word) : Word := ((w.setWidth 8).setWidth 32 <<< 8) ||| 1#32

/-- STATUS with the four valid bits set to the given values. -/
def validStatus (st : Word) (out freq tree code : Bool) : Word :=
  setBit (setBit (setBit (setBit st 3 out) 4 freq) 5 tree) 6 code

/-- BUSY 0, DONE 1 and the given ERR: the part both completions share. -/
def completeStatus (st : Word) (err : Bool) : Word :=
  setBit (setBit (setBit st 0 false) 1 true) 2 err

/-- STATUS after a successful completion (R148), the command having set its valid bits. -/
def successStatus (st : Word) : Word := completeStatus st false

/-- STATUS after an error completion (R301): BUSY 0, DONE 1, ERR 1, valid bits 0; LAST_CMD stays. -/
def errorStatus (st : Word) : Word :=
  completeStatus (validStatus st false false false false) true

end Sys2Proof.Machine
end

