-- ==== Sys2Proof/Machine/Operands.lean ====
section
/-! DEFINITION. The operand of a host transaction: which register, table entry or buffer word its
offset names (10_state.md rules R34, R49 to R54; 20_memory.md rules R70, R72, R75). -/

namespace Sys2Proof.Machine

/-- The registers of R34. -/
inductive Reg where
  | cmd | status | error | errInfo | inLen | outLen | padLen | hdrLen
  | symCount | nodeCount | root | bitCount | inCap | outCap | ident
  deriving DecidableEq, Repr

/-- The offset of a register (R34). -/
def Reg.offset : Reg → Offset
  | .cmd => 0x000
  | .status => 0x004
  | .error => 0x008
  | .errInfo => 0x00C
  | .inLen => 0x010
  | .outLen => 0x014
  | .padLen => 0x018
  | .hdrLen => 0x01C
  | .symCount => 0x020
  | .nodeCount => 0x024
  | .root => 0x028
  | .bitCount => 0x02C
  | .inCap => 0x030
  | .outCap => 0x034
  | .ident => 0x038

/-- Every register, in the order of R34. -/
def Reg.all : List Reg :=
  [.cmd, .status, .error, .errInfo, .inLen, .outLen, .padLen, .hdrLen,
    .symCount, .nodeCount, .root, .bitCount, .inCap, .outCap, .ident]

/-- The register at an offset, if one is there (R34, R49). -/
def regAt (off : Offset) : Option Reg := Reg.all.find? fun r => r.offset = off

/-- What a mapped, aligned offset names (R75). -/
inductive Region where
  | reg (r : Reg)
  /-- The FREQ window's word of symbol `s` (R50). -/
  | freq (s : Fin 256)
  /-- The CODE_LEN window's word of symbol `s` (R51). -/
  | codeLen (s : Fin 256)
  /-- The CODE_BITS window's word `w` of symbol `s` (R51). -/
  | codeBits (s : Fin 256) (w : Fin 8)
  /-- The NODE window's word 0 or word 1 (`second`) of node `i` (R52). -/
  | node (i : Fin 511) (second : Bool)
  /-- The IN window's word whose byte 0 is `IN[k]` (R53). -/
  | inWord (k : Nat)
  /-- The OUT window's word whose byte 0 is `OUT[k]` (R54). -/
  | outWord (k : Nat)
  deriving DecidableEq, Repr

/-- What an offset names; `none` for one that is not a multiple of 4 or is unmapped (R49, R72, R75).
Capacities are multiples of 4, so an aligned offset below one has its whole word below it. -/
def region (p : Params) (off : Offset) : Option Region :=
  let o := off.toNat
  if o % 4 ≠ 0 then none
  else if o < 0x1000 then (regAt off).map .reg
  else if o < 0x1400 then some (.freq (Fin.ofNat 256 ((o - 0x1000) / 4)))
  else if o < 0x1800 then some (.codeLen (Fin.ofNat 256 ((o - 0x1400) / 4)))
  else if o < 0x2000 then none
  else if o < 0x4000 then
    some (.codeBits (Fin.ofNat 256 ((o - 0x2000) / 32)) (Fin.ofNat 8 ((o - 0x2000) % 32 / 4)))
  else if o < 0x4FF8 then
    some (.node (Fin.ofNat 511 ((o - 0x4000) / 8)) (decide ((o - 0x4000) % 8 = 4)))
  else if o < 0x100000 then none
  else if o < 0x100000 + p.inCap then some (.inWord (o - 0x100000))
  else if o < 0x200000 then none
  else if o < 0x200000 + p.outCap then some (.outWord (o - 0x200000))
  else none

/-- The word of four bytes, byte 0 in bits [7:0] (R70). -/
def laneWord (b0 b1 b2 b3 : Byte) : Word :=
  b0.setWidth 32 ||| (b1.setWidth 32 <<< 8) ||| (b2.setWidth 32 <<< 16) ||| (b3.setWidth 32 <<< 24)

/-- Byte `q` of a word: bits `[8q+7 : 8q]` (R70). -/
def lane (w : Word) (q : Nat) : Byte := w.extractLsb' (8 * q) 8

end Sys2Proof.Machine
end

