-- ==== Sys2Proof/Machine/Ops.lean ====
section
/-! DEFINITION. The named operations over buffers, registers and the bus side, and the operations all
instructions share: the answer to a transaction, SLVERR, acceptance, the two completions, reset. -/

namespace Sys2Proof.Machine

/-! ## Buffers -/

/-- The byte listed at an index; `none` where nothing is listed. -/
def Memory.read : Memory → Nat → Option Byte
  | [], _ => none
  | (a, b) :: m, k => if a = k then some b else Memory.read m k

/-- The buffer with a byte stored at an index. -/
def Memory.write : Memory → Nat → Byte → Memory
  | [], k, v => [(k, v)]
  | (a, b) :: m, k, v =>
    if k < a then (k, v) :: (a, b) :: m
    else if k = a then (k, v) :: m
    else (a, b) :: Memory.write m k v

/-- The buffer with a byte string stored from an index upward. -/
def Memory.writeBytes : Memory → Nat → Bytes → Memory
  | m, _, [] => m
  | m, k, b :: bs => Memory.writeBytes (Memory.write m k b) (k + 1) bs

/-- Every listed index lies above `lo`, and the indices rise strictly. -/
def Memory.risingAbove : Option Nat → Memory → Bool
  | _, [] => true
  | none, (a, _) :: m => Memory.risingAbove (some a) m
  | some lo, (a, _) :: m => decide (lo < a) && Memory.risingAbove (some a) m

/-- The canonical form: indices strictly rising. An index that is not listed has no value of its own,
so no listed byte can equal one. -/
def Memory.wf (m : Memory) : Bool := Memory.risingAbove none m

/-- Every listed index lies below a capacity. -/
def Memory.below (m : Memory) (cap : Nat) : Bool := m.all fun c => decide (c.1 < cap)

/-- `IN[k]`: the byte last written, else the unspecified one fixed at reset (R53, C10; log 5). -/
def State.inByte (s : State) (k : Nat) : Byte :=
  (Memory.read s.inBuf k).getD (Config.initialIn s.epoch k)

/-- `IN[0..n)` with `n = x[IN_LEN]`, the input of ENCODE and DECODE (R39, R101). -/
def State.input (s : State) : Bytes := (List.range s.inLen.toNat).map s.inByte

/-- `OUT[j]` where a read may see it: OUT_VALID = 1 and `j < OUT_LEN` (R54). -/
def State.outByte (s : State) (j : Nat) : Option Byte :=
  if statusOutValid s.status ∧ j < s.outLen.toNat then Memory.read s.outBuf j else none

/-! ## Registers (R34) -/

/-- What a read of a register gives (R34, R35, R43, R48). -/
def State.reg (s : State) : Reg → Word
  | .cmd => 0
  | .status => s.status
  | .error => s.error
  | .errInfo => s.errInfo
  | .inLen => s.inLen
  | .outLen => s.outLen
  | .padLen => s.padLen
  | .hdrLen => s.hdrLen
  | .symCount => s.symCount
  | .nodeCount => s.nodeCount
  | .root => s.root
  | .bitCount => s.bitCount
  | .inCap => BitVec.ofNat 32 s.params.inCap
  | .outCap => BitVec.ofNat 32 s.params.outCap
  | .ident => 0x48554631

/-! ## Free values (R10 `draw()`; log 4) -/

/-- The byte lane `q` of the next four draws. -/
def State.drawLane (s : State) (q : Nat) : Byte := Config.drawByte (s.draws + q)

/-- A word of four drawn bytes. -/
def State.drawWord (s : State) : Word :=
  laneWord (s.drawLane 0) (s.drawLane 1) (s.drawLane 2) (s.drawLane 3)

/-- The state once four bytes are drawn. -/
def State.afterDraw (s : State) : State := { s with draws := s.draws + 4 }

/-! ## Answers to host transactions -/

/-- A READ32 answered OKAY with data; a read has no other effect (R73, R140). -/
def State.answerRead (s : State) (data : Word) : State :=
  { s with response := some ⟨.okay, some data⟩ }

/-- A READ32 answered OKAY with four drawn bytes (R55). -/
def State.answerDraw (s : State) : State := s.afterDraw.answerRead s.drawWord

/-- A read of a window: its word while its valid bit is 1, else drawn bytes (R55). -/
def State.answerGated (s : State) (valid : Bool) (data : Word) : State :=
  if valid then s.answerRead data else s.answerDraw

/-- Lane `q` of an OUT word: the byte if it is readable, else a drawn one (R54, R140). -/
def State.outLane (s : State) (k q : Nat) : Byte := (s.outByte (k + q)).getD (s.drawLane q)

/-- A READ32 of the OUT window (R54, R140). -/
def State.answerOut (s : State) (k : Nat) : State :=
  s.afterDraw.answerRead (laneWord (s.outLane k 0) (s.outLane k 1) (s.outLane k 2) (s.outLane k 3))

/-- The word of the IN window whose byte 0 is `IN[k]` (R70, R140). -/
def State.inWord (s : State) (k : Nat) : Word :=
  laneWord (s.inByte k) (s.inByte (k + 1)) (s.inByte (k + 2)) (s.inByte (k + 3))

/-- A WRITE32 answered OKAY (R141). -/
def State.answerWrite (s : State) : State := { s with response := some ⟨.okay, none⟩ }

/-- A READ32 answered SLVERR: no effect on the block, drawn data, the fault mark (R143, R144, R303). -/
def State.refuseRead (s : State) : State :=
  { s.afterDraw with hostFault := true, response := some ⟨.slverr, some s.drawWord⟩ }

/-- A WRITE32 answered SLVERR: no effect on the block, the fault mark (R143, R144, R303). -/
def State.refuseWrite (s : State) : State :=
  { s with hostFault := true, response := some ⟨.slverr, none⟩ }

/-- `IN[k+q] <- data[8q+7:8q]` for q = 0..3 (R70, R141). -/
def State.storeIn (s : State) (k : Nat) (data : Word) : State :=
  { s with inBuf := Memory.writeBytes s.inBuf k [lane data 0, lane data 1, lane data 2, lane data 3] }

/-- Acceptance of a command word (R145); how long the engine then waits is free (R146; log 3). -/
def State.accept (s : State) (w : Word) : State :=
  { s with
    phase := .busy w
    status := acceptStatus w
    engineWait := Config.engineDelay s.draws
    draws := s.draws + 1 }

/-! ## Completion of a command -/

/-- The seven result registers at 0 (R152, R301). -/
def State.clearResults (s : State) : State :=
  { s with
    outLen := 0
    padLen := 0
    hdrLen := 0
    symCount := 0
    nodeCount := 0
    root := 0
    bitCount := 0 }

/-- Successful completion (R146, R148), the command having set its own effects and valid bits. -/
def State.succeed (s : State) : State :=
  { s with
    phase := .idle
    error := 0
    errInfo := 0
    status := successStatus s.status }

/-- Error completion (R146, R301), the one way a command error is taken: the code and the value are
recorded, no result stays readable, the contents of OUT and of the tables become unspecified
(log 6), and the phase is IDLE. -/
def State.fail (s : State) (e : CmdError) : State :=
  { s.clearResults with
    phase := .idle
    error := e.kind.code.setWidth 32
    errInfo := e.info
    status := errorStatus s.status
    freq := Config.freeFreq s.draws
    code := Config.freeCode s.draws
    node := Config.freeNode s.draws
    outBuf := []
    draws := s.draws + 1 }

/-! ## Reset -/

/-- The platform's reset (R320, R321): a command in progress is abandoned; the never-written IN bytes
are those of a new reset (log 14). -/
def State.applyReset (s : State) : State :=
  State.afterReset s.params (s.epoch + 1) s.draws s.pending

end Sys2Proof.Machine
end

