-- ==== Sys2Proof/Machine/Bus.lean ====
section
/-! DEFINITION. The two host transactions' meanings (40_command_interface.md rules R140 to R145). -/

namespace Sys2Proof.Machine

/-- READ32 of what an offset names, while IDLE (R140, R55). -/
def State.readRegion (s : State) : Region → State
  | .reg r => s.answerRead (s.reg r)
  | .freq i => s.answerGated (statusFreqValid s.status) s.freq[i]
  | .codeLen i => s.answerGated (statusCodeValid s.status) s.code[i].lenWord
  | .codeBits i w => s.answerGated (statusCodeValid s.status) (s.code[i].bitsWord w)
  | .node i false => s.answerGated (statusTreeValid s.status) s.node[i].word0
  | .node i true => s.answerGated (statusTreeValid s.status) s.node[i].word1
  | .inWord k => s.answerRead (s.inWord k)
  | .outWord k => s.answerOut k

/-- WRITE32 to what an offset names, while IDLE (R141): CMD accepts a command, IN_LEN and IN are
written, everything else is read-only and the write ignored (R142). -/
def State.writeRegion (s : State) (data : Word) : Region → State
  | .reg .cmd => s.accept data
  | .reg .inLen => { s with inLen := data }
  | .reg _ => s
  | .freq _ => s
  | .codeLen _ => s
  | .codeBits _ _ => s
  | .node _ _ => s
  | .inWord k => s.storeIn k data
  | .outWord _ => s

/-- READ32 (R140): SLVERR for a misaligned or unmapped offset (R143) and, while BUSY, for every offset
but that of STATUS (R144). -/
def execRead32 (off : Offset) (s : State) : Host.Outcome State Fault Refusal :=
  match region s.params off, s.phase with
  | none, _ => .next s.refuseRead
  | some r, .idle => .next (s.readRegion r)
  | some r, .busy _ => if r = .reg .status then .next (s.readRegion r) else .next s.refuseRead

/-- WRITE32 (R141): SLVERR for a misaligned or unmapped offset (R143) and for every write while BUSY
(R144). -/
def execWrite32 (off : Offset) (data : Word) (s : State) : Host.Outcome State Fault Refusal :=
  match region s.params off, s.phase with
  | none, _ => .next s.refuseWrite
  | some _, .busy _ => .next s.refuseWrite
  | some r, .idle => .next (s.writeRegion data r).answerWrite

end Sys2Proof.Machine
end

