-- ==== Sys2Proof/Machine/Frequency.lean ====
section
/-! DEFINITION. Encoder stage 1, the frequency table (41_frequency_table.md). -/

namespace Sys2Proof.Machine

/-- frequencyTable (R180): `FREQ[s]` is the number of occurrences of byte `s` in the text; 32-bit
counters, which no text of at most 2^20 bytes overflows (R183). -/
def frequencyTable (text : Bytes) : Vector Word 256 :=
  Vector.ofFn fun s : Fin 256 => BitVec.ofNat 32 (text.count (BitVec.ofFin s))

/-- The distinct-symbol count `m` (R184). -/
def distinctCount (freq : Vector Word 256) : Nat :=
  (List.finRange 256).countP fun s : Fin 256 => decide (freq[s] ≠ 0)

end Sys2Proof.Machine
end

