-- ==== Sys2Proof/Machine/Tree.lean ====
section
/-! DEFINITION. Encoder stage 2, the binary tree builder (42_tree_builder.md). The arena is the list of
nodes created so far; a node's index is its insertion number. -/

namespace Sys2Proof.Machine

/-- Leaf creation, in ascending symbol value (R190). -/
def leaves (freq : Vector Word 256) : List Node :=
  (List.finRange 256).filterMap fun s : Fin 256 =>
    if freq[s] ≠ 0 then some (Node.ofSymbol freq[s] (BitVec.ofFin s)) else none

/-- `NODE[i].NFREQ`. -/
def nodeFreq (arena : List Node) (i : Nat) : Word := (arena.getD i Node.unused).nfreq

/-- The order of selection: lower frequency first, then the lower index (R192). -/
def selectedBefore (arena : List Node) (i j : Nat) : Bool :=
  decide ((nodeFreq arena i).toNat < (nodeFreq arena j).toNat) ||
    (decide (nodeFreq arena i = nodeFreq arena j) && decide (i < j))

/-- The argmin of R192 over a collection of indices; `none` for the empty one. -/
def argmin (arena : List Node) : List Nat → Option Nat
  | [] => none
  | i :: w =>
    match argmin arena w with
    | none => some i
    | some j => if selectedBefore arena i j then some i else some j

/-- The first and the second selected node (R192); `none` once fewer than two are left (R194). -/
def selectTwo (arena : List Node) (w : List Nat) : Option (Nat × Nat) :=
  match argmin arena w with
  | none => none
  | some x =>
    match argmin arena (w.erase x) with
    | none => none
    | some y => some (x, y)

/-- Merge (R193): the new node, the first selected its left child. -/
def mergedNode (arena : List Node) (x y : Nat) : Node :=
  Node.internal (nodeFreq arena x + nodeFreq arena y) x y

/-- The loop of R192 to R194, at most `fuel` merges: the arena and what is left of the working
collection. Each merge takes one index off, so as many merges as indices are enough (log 11). -/
def mergeLoop : Nat → List Node → List Nat → List Node × List Nat
  | 0, arena, w => (arena, w)
  | fuel + 1, arena, w =>
    match selectTwo arena w with
    | none => (arena, w)
    | some (x, y) =>
      mergeLoop fuel (arena ++ [mergedNode arena x y]) (((w.erase x).erase y) ++ [arena.length])

/-- A built tree: the arena and the root's index. -/
structure Tree where
  arena : List Node
  root : Nat
  deriving DecidableEq, Repr

/-- buildTree (R190 to R196): the root is the one index left (R194, R195). -/
def buildTree (freq : Vector Word 256) : Tree :=
  let start := leaves freq
  let built := mergeLoop start.length start (List.range start.length)
  ⟨built.1, built.2.headD 0⟩

/-- The NODE arena of a tree: entries at or above NODE_COUNT read as zero words (R52, R196). -/
def nodeTable (tree : Tree) : Vector Node 511 :=
  Vector.ofFn fun i : Fin 511 => tree.arena.getD i.val Node.unused

end Sys2Proof.Machine
end

