-- ==== Sys2Proof/Machine/CodeTable.lean ====
section
/-! DEFINITION. Encoder stage 3, the code-table generator (43_code_table.md). A code list is the pairs
(symbol, code) of the symbols that have a code. -/

namespace Sys2Proof.Machine

/-- Pairs of a symbol and its code. -/
abbrev CodeList := List (Byte × Bits)

/-- The code of a symbol; the empty string for one without a code (R212). -/
def codeOf (codes : CodeList) (s : Byte) : Bits := (codes.lookup s).getD []

/-- The leaves below node `i`, each with its path: "0" to the left, "1" to the right (R210). A child's
index is lower than its parent's, so the root's index bounds the depth (R198; log 11). -/
def codesBelow (arena : List Node) : Nat → Nat → Bits → CodeList
  | 0, _, _ => []
  | depth + 1, i, path =>
    let n := arena.getD i Node.unused
    if n.leaf then [(n.sym, path)]
    else
      codesBelow arena depth n.left.toNat (path ++ [false]) ++
        codesBelow arena depth n.right.toNat (path ++ [true])

/-- codeTable (R210, R211): a root that is a leaf gets the code "0". -/
def codeList (tree : Tree) : CodeList :=
  let r := tree.arena.getD tree.root Node.unused
  if r.leaf then [(r.sym, [false])]
  else codesBelow tree.arena tree.arena.length tree.root []

/-- The CODE table of a code list: an absent symbol has CLEN 0 and CBITS 0 (R51, R210, R212). -/
def codeTable (codes : CodeList) : Vector CodeEntry 256 :=
  Vector.ofFn fun s : Fin 256 => CodeEntry.ofBits (codeOf codes (BitVec.ofFin s))

end Sys2Proof.Machine
end

