-- ==== Sys2Proof/Machine/Packer.lean ====
section
/-! DEFINITION. The bit packer and unpacker (44_bit_packer.md). -/

namespace Sys2Proof.Machine

/-- Concatenation of the symbols' codes in input order (R220). -/
def concatCodes (codes : CodeList) (text : Bytes) : Bits := text.flatMap (codeOf codes)

/-- Pad length of `len` bits (R221). -/
def padLength (len : Nat) : Nat := (8 - len % 8) % 8

/-- Packing (R222): bit i of the string is bit `7 - i mod 8` of byte `i div 8`; filler bits are 0. -/
def pack (bits : Bits) : Bytes :=
  (List.range ((bits.length + padLength bits.length) / 8)).map fun j =>
    BitVec.ofFnBE fun t : Fin 8 => bits.getD (8 * j + t.val) false

/-- The bits of one byte, most significant first (R224). -/
def byteBits (b : Byte) : Bits := (List.range 8).map b.getMsbD

/-- Unpacking (R224): all payload bits but the last `pad`, whatever those are (R225). -/
def unpack (payload : Bytes) (pad : Nat) : Bits :=
  (payload.flatMap byteBits).take (8 * payload.length - pad)

end Sys2Proof.Machine
end

