-- ==== Sys2Proof/Machine/Header.lean ====
section
/-! DEFINITION. The header codec (45_header_codec.md; byte grammar 30_encoding.md rules R110 to R116).
The fixed bytes are ASCII (R111): SP 0x20, `-` 0x2D, `N` 0x4E, `x` 0x78, `E` 0x45, `D` 0x44, `0` 0x30,
`1` 0x31. -/

namespace Sys2Proof.Machine

/-! ## Serialisation -/

/-- The character of a code bit (R112). -/
def bitChar (b : Bool) : Byte := if b then 0x31 else 0x30

/-- One pair: the symbol byte as it is, ` --`, the code, ` Nx ` (R110, R112, R240). -/
def pairBytes (s : Byte) (c : Bits) : Bytes :=
  s :: 0x20#8 :: 0x2D#8 :: 0x2D#8 :: (c.map bitChar ++ [0x20#8, 0x4E#8, 0x78#8, 0x20#8])

/-- The end of the header: `END `, the pad digit, ` END` (R113, R240). -/
def headerEnd (pad : Nat) : Bytes :=
  [0x45#8, 0x4E#8, 0x44#8, 0x20#8, BitVec.ofNat 8 (0x30 + pad), 0x20#8, 0x45#8, 0x4E#8, 0x44#8]

/-- serializeHeader (R240): one pair per symbol with a code, in ascending symbol value. -/
def serializeHeader (codes : CodeList) (pad : Nat) : Bytes :=
  ((List.finRange 256).flatMap fun s : Fin 256 =>
    let c := codeOf codes (BitVec.ofFin s)
    if c = [] then [] else pairBytes (BitVec.ofFin s) c) ++ headerEnd pad

/-! ## Deserialisation -/

/-- A place in the artifact: the bytes from there on, and the offset `pos`. The input has run out
(`pos = n`) when no byte is left. -/
structure Cursor where
  rest : Bytes
  pos : Nat
  deriving DecidableEq, Repr

/-- `expect` for each of the bytes in turn (R241): HEADER_PARSE at the first that is not there. -/
def expectBytes : Bytes → Cursor → Except CmdError Cursor
  | [], c => .ok c
  | b :: bs, ⟨rest, pos⟩ =>
    match rest with
    | [] => .error (headerParseAt pos)
    | x :: xs => if x = b then expectBytes bs ⟨xs, pos + 1⟩ else .error (headerParseAt pos)

/-- tableEnd (R242): the next three bytes are `END`. -/
def tableEnd (c : Cursor) : Bool := decide (c.rest.take 3 = [0x45#8, 0x4E#8, 0x44#8])

/-- readSymbol (R243): any byte, then ` --`. -/
def readSymbol (c : Cursor) : Except CmdError (Byte × Cursor) :=
  match c.rest with
  | [] => .error (headerParseAt c.pos)
  | s :: xs =>
    match expectBytes [0x20#8, 0x2D#8, 0x2D#8] ⟨xs, c.pos + 1⟩ with
    | .ok c' => .ok (s, c')
    | .error e => .error e

/-- readCode (R244) from the given bytes and offset, `code` being the bits read so far: the code, and
the place of the SP that ends it. -/
def readCode : Bytes → Nat → Bits → Except CmdError (Bits × Cursor)
  | [], pos, _ => .error (headerParseAt pos)
  | x :: xs, pos, code =>
    if x = 0x30#8 ∨ x = 0x31#8 then
      if code.length = 255 then .error (headerParseAt pos)
      else readCode xs (pos + 1) (code ++ [decide (x = 0x31#8)])
    else if x ≠ 0x20#8 then .error (invalidBitAt pos)
    else if code = [] then .error (headerParseAt pos)
    else .ok (code, ⟨x :: xs, pos⟩)

/-- expectNx (R245): ` Nx `. -/
def expectNx (c : Cursor) : Except CmdError Cursor :=
  expectBytes [0x20#8, 0x4E#8, 0x78#8, 0x20#8] c

/-- One of the codes is a prefix of the other, equal codes included (R248). -/
def prefixConflict (c d : Bits) : Bool := c.isPrefixOf d || d.isPrefixOf c

/-- insert (R246 to R248): the table with one more pair, whose symbol stood at offset `q`. -/
def insertPair (table : CodeList) (s : Byte) (c : Bits) (q : Nat) : Except CmdError CodeList :=
  if table.any fun e => e.1 == s then .error (headerParseAt q)
  else if table.any fun e => prefixConflict e.2 c then .error (headerParseAt q)
  else .ok (table ++ [(s, c)])

/-- One pair of the table (R241): symbol, code, separator, then the insertion. -/
def readPair (table : CodeList) (c : Cursor) : Except CmdError (CodeList × Cursor) :=
  match readSymbol c with
  | .error e => .error e
  | .ok (s, c1) =>
    match readCode c1.rest c1.pos [] with
    | .error e => .error e
    | .ok (code, c2) =>
      match expectNx c2 with
      | .error e => .error e
      | .ok c3 =>
        match insertPair table s code c.pos with
        | .error e => .error e
        | .ok table' => .ok (table', c3)

/-- The loop of R241 up to the table's `END`, which it takes. Each pair takes bytes off, so more
rounds than bytes are never needed (log 11). -/
def readPairs : Nat → CodeList → Cursor → Except CmdError (CodeList × Cursor)
  | 0, _, c => .error (headerParseAt c.pos)
  | fuel + 1, table, c =>
    if tableEnd c then .ok (table, ⟨c.rest.drop 3, c.pos + 3⟩)
    else
      match readPair table c with
      | .error e => .error e
      | .ok (table', c') => readPairs fuel table' c'

/-- The byte is a decimal digit. -/
def isDigit (b : Byte) : Bool := decide (0x30 ≤ b.toNat) && decide (b.toNat ≤ 0x39)

/-- The digits of padnum (R249): the value, saturating at 8, and the place after them. -/
def readDigits : Bytes → Nat → Nat → Nat × Cursor
  | [], pos, v => (v, ⟨[], pos⟩)
  | x :: xs, pos, v =>
    if isDigit x then readDigits xs (pos + 1) (min (10 * v + (x.toNat - 0x30)) 8)
    else (v, ⟨x :: xs, pos⟩)

/-- readPad (R249): SP, digits, ` END`; then the value must be at most 7. -/
def readPad (c : Cursor) : Except CmdError (Nat × Cursor) :=
  match expectBytes [0x20#8] c with
  | .error e => .error e
  | .ok c1 =>
    match c1.rest with
    | [] => .error (headerParseAt c1.pos)
    | d :: _ =>
      if isDigit d then
        let (v, c2) := readDigits c1.rest c1.pos 0
        match expectBytes [0x20#8, 0x45#8, 0x4E#8, 0x44#8] c2 with
        | .error e => .error e
        | .ok c3 => if 7 < v then .error (headerParseAt c1.pos) else .ok (v, c3)
      else .error (headerParseAt c1.pos)

/-- A parsed header: the pairs in the order they stood, pad, and the offset and bytes of the payload. -/
structure Header where
  table : CodeList
  pad : Nat
  length : Nat
  payload : Bytes
  deriving DecidableEq, Repr

/-- parseHeader (R241), with checkPad (R250) as its last check. -/
def parseHeader (artifact : Bytes) : Except CmdError Header :=
  match readPairs (artifact.length + 1) [] ⟨artifact, 0⟩ with
  | .error e => .error e
  | .ok (table, c) =>
    match readPad c with
    | .error e => .error e
    | .ok (pad, c') =>
      if 8 * c'.rest.length < pad then .error (headerParseAt c'.pos)
      else .ok ⟨table, pad, c'.pos, c'.rest⟩

end Sys2Proof.Machine
end

