-- ==== Sys2Proof/Machine/Decoder.lean ====
section
/-! DEFINITION. The decoder (46_decoder.md): the table-match form, which is normative (R270), and the
tree-traversal form a hardware may use instead (R274). -/

namespace Sys2Proof.Machine

/-- The symbol whose code is exactly the candidate (R270). -/
def matchCode (table : CodeList) (cand : Bits) : Option Byte :=
  (table.find? fun e => decide (e.2 = cand)).map Prod.fst

/-- decodeBits (R270) from bit `i` on: `start` is where the candidate `cand` began, `text` what is
emitted so far, `cap` is OUT_CAP. -/
def decodeFrom (cap : Nat) (table : CodeList) : Bits → Nat → Nat → Bits → Bytes → Except CmdError Bytes
  | [], _, start, cand, text => if cand = [] then .ok text else .error (truncatedAt start)
  | b :: bs, i, start, cand, text =>
    match matchCode table (cand ++ [b]) with
    | none => decodeFrom cap table bs (i + 1) start (cand ++ [b]) text
    | some s =>
      if text.length = cap then .error (capacityError start)
      else decodeFrom cap table bs (i + 1) (i + 1) [] (text ++ [s])

/-- decodeBits (R270). -/
def decodeBits (cap : Nat) (table : CodeList) (bits : Bits) : Except CmdError Bytes :=
  decodeFrom cap table bits 0 0 [] []

/-! ## The tree-traversal form (R274) -/

/-- A decode trie: its leaves are the codes. -/
inductive Trie where
  /-- No code has this string as a prefix. -/
  | missing
  | leaf (s : Byte)
  | node (zero one : Trie)
  deriving DecidableEq, Repr

/-- The child for a bit; a leaf and a missing node have none. -/
def trieChild : Trie → Bool → Trie
  | .node zero one, b => if b then one else zero
  | .leaf _, _ => .missing
  | .missing, _ => .missing

/-- The trie with one more code. -/
def trieInsert (s : Byte) : Bits → Trie → Trie
  | [], _ => .leaf s
  | b :: bs, t =>
    if b then .node (trieChild t false) (trieInsert s bs (trieChild t true))
    else .node (trieInsert s bs (trieChild t false)) (trieChild t true)

/-- The decode trie of a table (R274). -/
def trieOf (table : CodeList) : Trie :=
  table.foldl (fun t e => trieInsert e.1 e.2 t) .missing

/-- The walk of R274 from bit `i` on, standing at `here`, `moved` telling whether away from the root. -/
def trieWalk (cap : Nat) (top : Trie) : Bits → Nat → Nat → Trie → Bool → Bytes → Except CmdError Bytes
  | [], _, start, _, moved, text => if moved then .error (truncatedAt start) else .ok text
  | b :: bs, i, start, here, _, text =>
    match trieChild here b with
    | .missing => .error (truncatedAt start)
    | .leaf s =>
      if text.length = cap then .error (capacityError start)
      else trieWalk cap top bs (i + 1) (i + 1) top false (text ++ [s])
    | .node zero one => trieWalk cap top bs (i + 1) start (.node zero one) true text

/-- The tree-traversal decoder (R274). -/
def trieDecode (cap : Nat) (table : CodeList) (bits : Bits) : Except CmdError Bytes :=
  trieWalk cap (trieOf table) bits 0 0 (trieOf table) false []

end Sys2Proof.Machine
end

