-- ==== Sys2Proof/Machine/Commands.lean ====
section
/-! DEFINITION. The four commands' meanings (40_command_interface.md rules R146 to R153): each is the
whole engine step of its command. -/

namespace Sys2Proof.Machine

/-- What ENCODE computes from a text, stage by stage (R150). -/
structure Encoding where
  freq : Vector Word 256
  tree : Tree
  codes : CodeList
  bits : Bits
  pad : Nat
  header : Bytes
  payload : Bytes
  deriving DecidableEq, Repr

/-- The stages of ENCODE (R150): frequency table, tree, code table, concatenation, pad, payload, header. -/
def encodeText (text : Bytes) : Encoding :=
  let freq := frequencyTable text
  let tree := buildTree freq
  let codes := codeList tree
  let bits := concatCodes codes text
  let pad := padLength bits.length
  ⟨freq, tree, codes, bits, pad, serializeHeader codes pad, pack bits⟩

/-- The artifact: header, then payload with nothing between (R110, R150; 90_conflicts.md C1). -/
def Encoding.artifact (e : Encoding) : Bytes := e.header ++ e.payload

/-- ENCODE's checks in order, then its stages (R150, R297). -/
def encodeResult (s : State) : Except CmdError Encoding :=
  if s.params.inCap < s.inLen.toNat then .error (capacityError 0)
  else if s.inLen.toNat = 0 then .error emptyInputError
  else
    let e := encodeText s.input
    if s.params.outCap < e.artifact.length then .error (capacityError e.artifact.length)
    else .ok e

/-- ENCODE's effects (R150): the artifact in OUT, the tables, the registers, the valid bits. -/
def State.storeEncoding (s : State) (e : Encoding) : State :=
  { s with
    freq := e.freq
    node := nodeTable e.tree
    code := codeTable e.codes
    outBuf := Memory.writeBytes s.outBuf 0 e.artifact
    outLen := BitVec.ofNat 32 e.artifact.length
    padLen := BitVec.ofNat 32 e.pad
    hdrLen := BitVec.ofNat 32 e.header.length
    symCount := BitVec.ofNat 32 (distinctCount e.freq)
    nodeCount := BitVec.ofNat 32 e.tree.arena.length
    root := BitVec.ofNat 32 e.tree.root
    bitCount := BitVec.ofNat 32 e.bits.length
    status := validStatus s.status true true true true }

/-- ENCODE (R150). -/
def execEncode (s : State) : Host.Outcome State Fault Refusal :=
  match encodeResult s with
  | .ok e => .next (s.storeEncoding e).succeed
  | .error e => .next (s.fail e)

/-- What DECODE computes from an artifact (R151). -/
structure Decoding where
  header : Header
  bits : Bits
  text : Bytes
  deriving DecidableEq, Repr

/-- DECODE's stages on an artifact (R151, R298): header, unpacking, symbol decoding. -/
def decodeArtifact (outCap : Nat) (artifact : Bytes) : Except CmdError Decoding :=
  match parseHeader artifact with
  | .error e => .error e
  | .ok h =>
    let bits := unpack h.payload h.pad
    match decodeBits outCap h.table bits with
    | .error e => .error e
    | .ok text => .ok ⟨h, bits, text⟩

/-- DECODE's first check, then its stages (R151, R298). -/
def decodeResult (s : State) : Except CmdError Decoding :=
  if s.params.inCap < s.inLen.toNat then .error (capacityError 0)
  else decodeArtifact s.params.outCap s.input

/-- DECODE's effects (R151): the text in OUT, the parsed CODE table, the registers, the valid bits. -/
def State.storeDecoding (s : State) (d : Decoding) : State :=
  { s with
    code := codeTable d.header.table
    outBuf := Memory.writeBytes s.outBuf 0 d.text
    outLen := BitVec.ofNat 32 d.text.length
    padLen := BitVec.ofNat 32 d.header.pad
    hdrLen := BitVec.ofNat 32 d.header.length
    symCount := BitVec.ofNat 32 d.header.table.length
    nodeCount := 0
    root := 0
    bitCount := BitVec.ofNat 32 d.bits.length
    status := validStatus s.status true false false true }

/-- DECODE (R151). -/
def execDecode (s : State) : Host.Outcome State Fault Refusal :=
  match decodeResult s with
  | .ok d => .next (s.storeDecoding d).succeed
  | .error e => .next (s.fail e)

/-- The four valid bits at 0 (R152; log 10). -/
def State.clearValid (s : State) : State :=
  { s with status := validStatus s.status false false false false }

/-- CLEAR (R152): the result registers and valid bits 0; IN, IN_LEN, OUT and the tables stay. -/
def execClear (s : State) : Host.Outcome State Fault Refusal :=
  .next s.clearResults.clearValid.succeed

/-- ILLEGAL (R153): always ILLEGAL_COMMAND, with the whole word. -/
def execIllegal (w : Word) (s : State) : Host.Outcome State Fault Refusal :=
  .next (s.fail (illegalCommandError w))

end Sys2Proof.Machine
end

