-- ==== Sys2Proof/Machine/Dispatch.lean ====
section
/-! DEFINITION. One arm per constructor of Instr, each one direct call of that instruction's meaning. -/

namespace Sys2Proof.Machine

/-- What an instruction does. -/
def exec (i : Instr) (s : State) : Host.Outcome State Fault Refusal :=
  match i with
  | .encode => Sys2Proof.Machine.execEncode s
  | .decode => Sys2Proof.Machine.execDecode s
  | .clear => Sys2Proof.Machine.execClear s
  | .illegal w => Sys2Proof.Machine.execIllegal w s
  | .read32 off => Sys2Proof.Machine.execRead32 off s
  | .write32 off data => Sys2Proof.Machine.execWrite32 off data s

end Sys2Proof.Machine
end

