-- ==== Sys2Proof/WellFormed.lean ====
section
/-! DEFINITION. Which instruction terms some encoding stands for. The one check: ILLEGAL carries a
word that is none of the three legal command words (30_encoding.md rule R102). Every 22-bit offset
and every data word makes a transaction: a misaligned or unmapped offset is a transaction that
gets SLVERR (40_command_interface.md rule R143), not an ill-formed one. -/

namespace Sys2Proof

/-- The three valid command words (R100). -/
def legalCommands : List Word := [0x00000001, 0x00000002, 0x00000003]

/-- The instruction is the meaning of some encoding. -/
def Instr.wf : Instr → Bool
  | .encode => true
  | .decode => true
  | .clear => true
  | .illegal w => !legalCommands.contains w
  | .read32 _ => true
  | .write32 _ _ => true

end Sys2Proof
end

