-- ==== Sys2Proof/Decode.lean ====
section
/-! DEFINITION. Reading and writing encodings (30_encoding.md rules R100 to R105).

A command is one 32-bit word; as bytes, least significant byte first, the only byte order the
block has (20_memory.md rule R70; log 12). A host transaction is its ASCII text `R:oooooo` or
`W:oooooo:dddddddd` (R105). The three forms have 4, 8 and 17 bytes, so the length tells them apart.
The decoder is total on byte strings and rejects by name. -/

namespace Sys2Proof

/-- Why a byte string is no encoding of an instruction. -/
inductive DecodeError where
  /-- The length is that of no encoding (4, 8 or 17 bytes). -/
  | badLength
  /-- A transaction's text begins with no kind letter of its length (`R` for 8 bytes, `W` for 17). -/
  | badKind
  /-- A `:` is missing. -/
  | missingColon
  /-- A character that should be a hexadecimal digit is none. -/
  | badHexDigit
  /-- The offset has more than 22 bits (R75: the block never sees bits above bit 21). -/
  | offsetTooWide
  deriving DecidableEq, Repr

/-- The instruction a command word stands for: an equality test on all 32 bits (R100, R102, R147). -/
def decodeCommand (w : Word) : Instr :=
  if w = 0x00000001 then .encode
  else if w = 0x00000002 then .decode
  else if w = 0x00000003 then .clear
  else .illegal w

/-- The value of one hexadecimal digit character; capitals and small letters alike (log 12). -/
def hexValue (b : Byte) : Option Nat :=
  let n := b.toNat
  if 0x30 ≤ n ∧ n ≤ 0x39 then some (n - 0x30)
  else if 0x41 ≤ n ∧ n ≤ 0x46 then some (n - 0x41 + 10)
  else if 0x61 ≤ n ∧ n ≤ 0x66 then some (n - 0x61 + 10)
  else none

/-- The value of a run of hexadecimal digits, most significant first, after the value so far. -/
def hexNumber : Nat → Bytes → Option Nat
  | acc, [] => some acc
  | acc, b :: bs =>
    match hexValue b with
    | some d => hexNumber (16 * acc + d) bs
    | none => none

/-- A 22-bit offset from its hexadecimal digits. -/
def decodeOffset (digits : Bytes) : Except DecodeError Offset :=
  match hexNumber 0 digits with
  | none => .error .badHexDigit
  | some n => if n < 2 ^ 22 then .ok (BitVec.ofNat 22 n) else .error .offsetTooWide

/-- A data word from its eight hexadecimal digits. -/
def decodeData (digits : Bytes) : Except DecodeError Word :=
  match hexNumber 0 digits with
  | none => .error .badHexDigit
  | some n => .ok (BitVec.ofNat 32 n)

/-- The text `R:oooooo` of a READ32 (R105): `R` is 0x52, `:` is 0x3A. -/
def decodeReadText (bs : Bytes) : Except DecodeError Instr :=
  if bs[0]? ≠ some 0x52 then .error .badKind
  else if bs[1]? ≠ some 0x3A then .error .missingColon
  else
    match decodeOffset (bs.drop 2) with
    | .ok off => .ok (.read32 off)
    | .error e => .error e

/-- The text `W:oooooo:dddddddd` of a WRITE32 (R105): `W` is 0x57, `:` is 0x3A. -/
def decodeWriteText (bs : Bytes) : Except DecodeError Instr :=
  if bs[0]? ≠ some 0x57 then .error .badKind
  else if bs[1]? ≠ some 0x3A then .error .missingColon
  else if bs[8]? ≠ some 0x3A then .error .missingColon
  else
    match decodeOffset ((bs.drop 2).take 6), decodeData (bs.drop 9) with
    | .ok off, .ok data => .ok (.write32 off data)
    | .error e, _ => .error e
    | .ok _, .error e => .error e

/-- A number from its bytes, least significant byte first. -/
def littleEndian : Bytes → Nat
  | [] => 0
  | b :: bs => b.toNat + 256 * littleEndian bs

/-- The instruction a byte string encodes. -/
def decode (bs : Bytes) : Except DecodeError Instr :=
  match bs.length with
  | 4 => .ok (decodeCommand (BitVec.ofNat 32 (littleEndian bs)))
  | 8 => decodeReadText bs
  | 17 => decodeWriteText bs
  | _ => .error .badLength

/-- The n bytes of a number, least significant byte first. -/
def bytesOf : Nat → Nat → Bytes
  | 0, _ => []
  | n + 1, v => BitVec.ofNat 8 v :: bytesOf n (v / 256)

/-- The character of a hexadecimal digit, in capitals as the spec's own lines have it (95, P1). -/
def hexDigit (d : Nat) : Byte :=
  if d < 10 then BitVec.ofNat 8 (0x30 + d) else BitVec.ofNat 8 (0x41 + (d - 10))

/-- The n hexadecimal digits of a number, most significant first. -/
def hexText : Nat → Nat → Bytes
  | 0, _ => []
  | n + 1, v => hexText n (v / 16) ++ [hexDigit (v % 16)]

/-- The command word of an instruction that is a command (R100, R102). -/
def commandWord : Instr → Option Word
  | .encode => some 0x00000001
  | .decode => some 0x00000002
  | .clear => some 0x00000003
  | .illegal w => some w
  | .read32 _ => none
  | .write32 _ _ => none

/-- The bytes of an instruction's encoding. -/
def encode : Instr → Bytes
  | .encode => bytesOf 4 0x00000001
  | .decode => bytesOf 4 0x00000002
  | .clear => bytesOf 4 0x00000003
  | .illegal w => bytesOf 4 w.toNat
  | .read32 off => 0x52#8 :: 0x3A#8 :: hexText 6 off.toNat
  | .write32 off data =>
    0x57#8 :: 0x3A#8 :: (hexText 6 off.toNat ++ 0x3A#8 :: hexText 8 data.toNat)

/-- How many bytes hold an encoding of `nbits` table bits: the table's three command rows have 32
bits; a longer one is a transaction's text. -/
def tableBytes (nbits : Nat) : Nat :=
  if nbits ≤ 32 then 4 else nbits / 8

/-- The instruction the decoder reads from the bits of an opcode-table row: bit 0 is the least
significant bit of the first byte. -/
def decodeTableWord (nbits w : Nat) : Option Instr :=
  match decode (bytesOf (tableBytes nbits) w) with
  | .ok i => some i
  | .error _ => none

end Sys2Proof
end

