-- ==== Sys2Proof/Machine/Fetch.lean ====
section
/-! DEFINITION. What happens next (40_command_interface.md rules R146, R149; log 2, log 3): the engine
step of an accepted command, the host's next transaction, or a reset. The block fetches nothing
(20_memory.md rule R81): a command comes from the accepted CMD write, a transaction from the host. -/

namespace Sys2Proof.Machine

/-- The next thing the machine does. -/
inductive Action where
  /-- IDLE and nothing pending: the block waits (R149, R310; log 13). -/
  | wait
  /-- An instruction, run in the given state. -/
  | run (i : Instr) (s : State)
  /-- The platform's reset, in the given state. -/
  | reset (s : State)
  deriving DecidableEq, Repr

/-- An event taken from the front of `pending`, in the state without it. -/
def takeEvent (e : Event) (s : State) : Action :=
  match e with
  | .txn t => .run t.instr s
  | .reset => .reset s

/-- The next action. While BUSY, the engine step comes when its wait is over or nothing else is
pending; until then an event is taken first, and the wait grows shorter. -/
def nextAction (s : State) : Action :=
  match s.phase, s.pending with
  | .idle, [] => .wait
  | .idle, e :: es => takeEvent e { s with pending := es }
  | .busy w, [] => .run (decodeCommand w) s
  | .busy w, e :: es =>
    match s.engineWait with
    | 0 => .run (decodeCommand w) s
    | k + 1 => takeEvent e { s with pending := es, engineWait := k }

/-- The state with a transaction placed as the very next event. -/
def placeTxn (t : Txn) (s : State) : State :=
  match s.phase with
  | .idle => { s with pending := .txn t :: s.pending }
  | .busy _ => { s with pending := .txn t :: s.pending, engineWait := s.engineWait + 1 }

/-- The state with a command word accepted and its engine step due (log 2). -/
def placeCommand (w : Word) (s : State) : State :=
  { s with phase := .busy w, status := acceptStatus w, engineWait := 0 }

/-- The state in which the very next step runs the instruction of an opcode-table row's bits. -/
def placeTableWord (s : State) (nbits w : Nat) : State :=
  match decodeTableWord nbits w with
  | some .encode => placeCommand 0x00000001 s
  | some .decode => placeCommand 0x00000002 s
  | some .clear => placeCommand 0x00000003 s
  | some (.illegal c) => placeCommand c s
  | some (.read32 off) => placeTxn (.read32 off) s
  | some (.write32 off data) => placeTxn (.write32 off data) s
  | none => s

end Sys2Proof.Machine
end

