-- ==== Sys2Proof/Machine/HostNotation.lean ====
section
/-! DEFINITION. The pseudo-operations of the host notation and the transactions they expand to
(30_encoding.md rule R106). WAIT is a loop of the host, whose number of rounds is unspecified; here is
what one round sends. -/

namespace Sys2Proof.Machine

/-- The transactions as events, to be put into `pending`. -/
def asEvents (ts : List Txn) : List Event := ts.map .txn

/-- `CMD ENCODE`, `CMD DECODE`, `CMD CLEAR` for the command words 1, 2 and 3; any other word is an
illegal command (R102). -/
def cmdTxn (w : Word) : Txn := .write32 0x000000 w

/-- One round of `WAIT`: a read of STATUS. -/
def waitTxn : Txn := .read32 0x000004

/-- Word `m` of a byte string: bytes 4m to 4m+3 by R70, bytes beyond its end being 0x00. -/
def wordOfBytes (bs : Bytes) (m : Nat) : Word :=
  laneWord (bs.getD (4 * m) 0) (bs.getD (4 * m + 1) 0) (bs.getD (4 * m + 2) 0) (bs.getD (4 * m + 3) 0)

/-- The number of 32-bit words that hold n bytes. -/
def wordCount (n : Nat) : Nat := (n + 3) / 4

/-- `LOADIN "<bytes>"`: the words of IN, then IN_LEN. -/
def loadIn (bs : Bytes) : List Txn :=
  (List.range (wordCount bs.length)).map (fun m =>
    .write32 (BitVec.ofNat 22 (0x100000 + 4 * m)) (wordOfBytes bs m)) ++
  [.write32 0x000010 (BitVec.ofNat 32 bs.length)]

/-- `READOUT n`. -/
def readOut (n : Nat) : List Txn :=
  (List.range (wordCount n)).map fun m => .read32 (BitVec.ofNat 22 (0x200000 + 4 * m))

/-- `COPYOUT` of n bytes, `words` being the data its reads are answered with. -/
def copyOut (n : Nat) (words : List Word) : List Txn :=
  (List.range (wordCount n)).flatMap (fun m =>
    [.read32 (BitVec.ofNat 22 (0x200000 + 4 * m)),
      .write32 (BitVec.ofNat 22 (0x100000 + 4 * m)) (words.getD m 0)]) ++
  [.write32 0x000010 (BitVec.ofNat 32 n)]

end Sys2Proof.Machine
end

