-- ==== Sys2Proof/Safety.lean ====
section
/-! DEFINITION. What claims are stated in: the end of a run and its observation (R149, R303, R332), the
address map read off the table of R75, the two completions as relations between states, the error codes
that exist (R290), prefix-free tables (R9, R248), and the invariant of the machine. -/

namespace Sys2Proof.Machine

/-- A run is over: IDLE with no event left (R149, R332). -/
def State.finished (s : State) : Bool := decide (s.phase = .idle) && decide (s.pending = [])

/-- A clean-entry state (R332): IDLE and no host fault. -/
def State.cleanEntry (s : State) : Bool := decide (s.phase = .idle) && !s.hostFault

/-- What a run's final state shows (R149): registers, and tables and buffers through their gates. -/
structure Observation where
  registers : List Word
  freq : Option (List Word)
  code : Option (List CodeEntry)
  node : Option (List Node)
  input : Bytes
  output : Option (List (Option Byte))
  deriving DecidableEq, Repr

/-- A list, if its valid bit is 1 (R55). -/
def gated {α : Type} (valid : Bool) (l : List α) : Option (List α) := if valid then some l else none

/-- The observation of a run (R149); a run that recorded a host fault says nothing (R303). -/
def State.observe (s : State) : Option Observation :=
  if s.finished && !s.hostFault then
    some
      { registers := Reg.all.map s.reg
        freq := gated (statusFreqValid s.status) s.freq.toList
        code := gated (statusCodeValid s.status) s.code.toList
        node := gated (statusTreeValid s.status) s.node.toList
        input := (List.range s.params.inCap).map s.inByte
        output := gated (statusOutValid s.status) ((List.range s.outLen.toNat).map s.outByte) }
  else none

/-! ## The address map, range by range (R49, R75) -/

/-- The offset is misaligned or unmapped: a transaction there gets SLVERR (R49, R72, R143). -/
def misalignedOrUnmapped (p : Params) (off : Offset) : Prop :=
  off.toNat % 4 ≠ 0 ∨
    (0x3C ≤ off.toNat ∧ off.toNat ≤ 0xFFC) ∨
    (0x1800 ≤ off.toNat ∧ off.toNat ≤ 0x1FFC) ∨
    (0x4FF8 ≤ off.toNat ∧ off.toNat ≤ 0xFFFFC) ∨
    (0x100000 + p.inCap ≤ off.toNat ∧ off.toNat ≤ 0x1FFFFC) ∨
    0x200000 + p.outCap ≤ off.toNat

/-- The offset is aligned and mapped read-only (R142). -/
def mappedReadOnly (p : Params) (off : Offset) : Prop :=
  off.toNat % 4 = 0 ∧
    ((0x4 ≤ off.toNat ∧ off.toNat ≤ 0xC) ∨
      (0x14 ≤ off.toNat ∧ off.toNat ≤ 0x38) ∨
      (0x1000 ≤ off.toNat ∧ off.toNat ≤ 0x17FC) ∨
      (0x2000 ≤ off.toNat ∧ off.toNat ≤ 0x4FF4) ∨
      (0x200000 ≤ off.toNat ∧ off.toNat < 0x200000 + p.outCap))

/-! ## Completions as relations -/

/-- `t` is `s` after the error completion of R301 with the given code and value. OUT and the tables are
unspecified: nothing is said of what they hold. -/
def failedWith (s t : State) (code info : Word) : Prop :=
  ∃ f c n o d,
    t = { s with
      phase := .idle
      error := code
      errInfo := info
      outLen := 0
      padLen := 0
      hdrLen := 0
      symCount := 0
      nodeCount := 0
      root := 0
      bitCount := 0
      status := (s.status &&& ~~~(0x7F#32)) ||| 0x06#32
      freq := f
      code := c
      node := n
      outBuf := o
      draws := d } ∧
    ∀ j, t.outByte j = none

/-- `t` differs from `s` only in what a command's successful completion may write (R148, R150 to R152):
the phase, STATUS, ERROR, ERR_INFO, the result registers, the tables and OUT. -/
def onlyResultsChanged (s t : State) : Prop :=
  t = { s with
    phase := t.phase
    status := t.status
    error := t.error
    errInfo := t.errInfo
    outLen := t.outLen
    padLen := t.padLen
    hdrLen := t.hdrLen
    symCount := t.symCount
    nodeCount := t.nodeCount
    root := t.root
    bitCount := t.bitCount
    freq := t.freq
    code := t.code
    node := t.node
    outBuf := t.outBuf }

/-- `t` has the same results as `s` (R327): STATUS, ERROR, ERR_INFO, the result registers, the tables and
OUT. -/
def sameResults (s t : State) : Prop :=
  t.status = s.status ∧ t.error = s.error ∧ t.errInfo = s.errInfo ∧ t.outLen = s.outLen ∧
    t.padLen = s.padLen ∧ t.hdrLen = s.hdrLen ∧ t.symCount = s.symCount ∧
    t.nodeCount = s.nodeCount ∧ t.root = s.root ∧ t.bitCount = s.bitCount ∧
    t.freq = s.freq ∧ t.code = s.code ∧ t.node = s.node ∧ t.outBuf = s.outBuf

/-- `s` and `u` show the host the same results: registers, and tables and OUT through their gates. -/
def sameShown (s u : State) : Prop :=
  s.status = u.status ∧ s.error = u.error ∧ s.errInfo = u.errInfo ∧ s.outLen = u.outLen ∧
    s.padLen = u.padLen ∧ s.hdrLen = u.hdrLen ∧ s.symCount = u.symCount ∧
    s.nodeCount = u.nodeCount ∧ s.root = u.root ∧ s.bitCount = u.bitCount ∧
    (statusFreqValid s.status = true → s.freq = u.freq) ∧
    (statusCodeValid s.status = true → s.code = u.code) ∧
    (statusTreeValid s.status = true → s.node = u.node) ∧
    (∀ j, s.outByte j = u.outByte j)

/-! ## Texts and trees -/

/-- The distinct symbols of a text, in ascending value (R190's order). -/
def distinctSymbols (text : Bytes) : List Byte :=
  ((List.finRange 256).map (BitVec.ofFin (w := 8))).filter fun b => decide (b ∈ text)

/-- From node `i` the bit string leads, through internal nodes, to the leaf of the symbol: bit 0 to LEFT,
bit 1 to RIGHT (R210). -/
def pathLeadsTo (arena : List Node) : Nat → Bits → Byte → Prop
  | i, [], s => ∃ n, arena[i]? = some n ∧ n.leaf = true ∧ n.sym = s
  | i, b :: c, s => ∃ n, arena[i]? = some n ∧ n.leaf = false ∧
      pathLeadsTo arena (if b then n.right.toNat else n.left.toNat) c s

/-! ## Artifacts -/

/-- The decimal number a string of digits writes (R113). -/
def decimalValue (digits : Bytes) : Nat :=
  digits.foldl (fun v x => 10 * v + (x.toNat - 0x30)) 0

/-- A code's characters, bit 0 first: `0` is 0x30 and `1` is 0x31 (R112). -/
def codeText (c : Bits) : Bytes := c.map fun b => if b then 0x31#8 else 0x30#8

/-- ` --` (R111). -/
def dashesText : Bytes := [0x20#8, 0x2D#8, 0x2D#8]

/-- ` Nx ` (R111). -/
def separatorText : Bytes := [0x20#8, 0x4E#8, 0x78#8, 0x20#8]

/-- `END` (R111). -/
def endText : Bytes := [0x45#8, 0x4E#8, 0x44#8]

/-- A pair of R110: the symbol's own byte, ` --`, the code, ` Nx `. -/
def pairText (s : Byte) (c : Bits) : Bytes := s :: (dashesText ++ codeText c ++ separatorText)

/-- The pairs of a table, in their order. -/
def pairsText (table : CodeList) : Bytes := table.flatMap fun e => pairText e.1 e.2

/-- The header of R110 with the given pairs, in their order, and the given digits as padnum. -/
def headerText (table : CodeList) (digits : Bytes) : Bytes :=
  pairsText table ++ endText ++ 0x20#8 :: (digits ++ 0x20#8 :: endText)

/-- The first byte of `rest` that differs from the bytes `want` which should stand there, or its end, is at
index `d`. -/
def differsAt (want rest : Bytes) (d : Nat) : Prop :=
  d < want.length ∧ rest.take d = want.take d ∧ rest[d]? ≠ want[d]?

/-- The bytes begin with no decimal digit. -/
def noDigitFirst (rest : Bytes) : Prop := ∀ x, rest.head? = some x → isDigit x = false

/-- The artifact of the table's pairs and then `rest` fails with the given error, which records the offset of
the byte at index `offset` of `rest`. -/
def headerFails (table : CodeList) (rest : Bytes) (kind : ErrorKind) (offset : Nat) : Prop :=
  parseHeader (pairsText table ++ rest) =
    .error ⟨kind, BitVec.ofNat 32 ((pairsText table).length + offset)⟩

/-- ERROR holds a code of R290 (the reserved ones are never written). -/
def legalError (w : Word) : Bool :=
  decide (w ∈ [0x00#32, 0x01#32, 0x02#32, 0x03#32, 0x04#32, 0x10#32, 0x11#32])

/-- No two different entries of the list have the same symbol, and none has a code that is a prefix of
another's (R247, R248). -/
def prefixFree (table : CodeList) : Bool :=
  decide (table.Pairwise fun e f => e.1 ≠ f.1 ∧ prefixConflict e.2 f.2 = false)

/-- Every code is 1 to 255 bits long (R214, R244). -/
def codeLengthsLegal (table : CodeList) : Bool :=
  table.all fun e => decide (1 ≤ e.2.length) && decide (e.2.length ≤ 255)

/-- STATUS agrees with the phase (R33, R36, R145, R301): while BUSY it is what acceptance wrote; while
IDLE, BUSY is 0, the reserved bits are 0, and ERR tells whether ERROR holds a code. -/
def State.statusInv (s : State) : Prop :=
  match s.phase with
  | .busy w => s.status = acceptStatus w
  | .idle =>
    statusBusy s.status = false ∧ s.status.getLsbD 7 = false ∧ s.status >>> 16 = 0 ∧
      (statusErr s.status = true ↔ s.error ≠ 0)

/-- The valid bits agree with one another and with ERR (R36, R150, R151, R301). -/
def State.validInv (s : State) : Prop :=
  statusOutValid s.status = statusCodeValid s.status ∧
    statusFreqValid s.status = statusTreeValid s.status ∧
    (statusFreqValid s.status = true → statusOutValid s.status = true) ∧
    (statusErr s.status = true → statusOutValid s.status = false)

/-- The registers hold what their fields allow (R34, R37, R40, R41, R44 to R46). -/
def State.registerInv (s : State) : Prop :=
  legalError s.error = true ∧ s.padLen.toNat ≤ 7 ∧ s.symCount.toNat ≤ 256 ∧
    s.nodeCount.toNat ≤ 511 ∧ s.root.toNat ≤ 510 ∧ s.outLen.toNat ≤ s.params.outCap

/-- The buffers are in canonical form within their capacities, and every OUT byte a read may see has a
value (R53, R54). -/
def State.bufferInv (s : State) : Prop :=
  Memory.wf s.inBuf = true ∧ Memory.below s.inBuf s.params.inCap = true ∧
    Memory.wf s.outBuf = true ∧ Memory.below s.outBuf s.params.outCap = true ∧
    (statusOutValid s.status = true → ∀ j, j < s.outLen.toNat → (s.outByte j).isSome = true)

/-- The invariant of the machine. -/
def State.Inv (s : State) : Prop :=
  s.statusInv ∧ s.validInv ∧ s.registerInv ∧ s.bufferInv

end Sys2Proof.Machine
end

