-- ==== Sys2Proof/Certificates/Slice0/Obligations.lean ====
section
/-! DEFINITION. The statements for the provers. -/

open Sys2Proof Sys2Proof.Machine

/-! ## Encodings -/

/-- Decoding an encoded well-formed instruction gives it back (R100 to R105). -/
def Obligations.DecodeOfEncode : Prop :=
  ∀ i : Instr, i.wf = true → decode (encode i) = .ok i

/-- Every 32-bit word is the command word of exactly one well-formed instruction (R100, R102), which its four
bytes decode to and are the encoding of. That the bytes stand least significant first is the model's
choice (log 12). -/
def Obligations.EveryCommandWordDecodes : Prop :=
  ∀ bs : Bytes, bs.length = 4 →
    let w : Word := BitVec.ofNat 32 (littleEndian bs)
    ∃ i : Instr, i.wf = true ∧ commandWord i = some w ∧ decode bs = .ok i ∧ encode i = bs ∧
      ∀ j : Instr, j.wf = true → commandWord j = some w → j = i

/-- Whatever the decoder accepts is well-formed, and its own encoding is read as the same instruction. -/
def Obligations.DecodedIsWellFormed : Prop :=
  ∀ (bs : Bytes) (i : Instr), decode bs = .ok i →
    i.wf = true ∧ (encode i).length = bs.length ∧ decode (encode i) = .ok i

/-- Words written out from the encodings of R100, R102 and R105. R100 gives the command word no byte order: that its
bytes stand least significant first, and that the characters are ASCII, is the model's choice (log 12). -/
def Obligations.WordsOfTheSpecDecode : Prop :=
  decode [0x01, 0x00, 0x00, 0x00] = .ok .encode ∧
  decode [0x02, 0x00, 0x00, 0x00] = .ok .decode ∧
  decode [0x03, 0x00, 0x00, 0x00] = .ok .clear ∧
  decode [0x01, 0x01, 0x00, 0x00] = .ok (.illegal 0x00000101) ∧
  decode [0x52, 0x3A, 0x30, 0x30, 0x31, 0x35, 0x38, 0x38] = .ok (.read32 0x001588) ∧
  decode [0x57, 0x3A, 0x31, 0x30, 0x30, 0x30, 0x30, 0x34, 0x3A,
      0x36, 0x31, 0x36, 0x34, 0x36, 0x31, 0x36, 0x33] = .ok (.write32 0x100004 0x61646163)

/-! ## The step -/

/-- R147: the engine step of an accepted word w runs ENCODE, DECODE, CLEAR or the illegal command. That it
comes when its wait is over or nothing else is pending is the model's choice (log 3). -/
def Obligations.EngineDispatchesByWord : Prop :=
  ∀ (s : State) (w : Word), s.phase = .busy w → (s.pending = [] ∨ s.engineWait = 0) →
    (w = 0x00000001 → step s = exec .encode s) ∧
    (w = 0x00000002 → step s = exec .decode s) ∧
    (w = 0x00000003 → step s = exec .clear s) ∧
    (w ≠ 0x00000001 → w ≠ 0x00000002 → w ≠ 0x00000003 → step s = exec (.illegal w) s)

/-- The host's next transaction is run when the block is IDLE, or BUSY with the engine step not yet due. Before
`exec`, a step takes the event off the queue and, while BUSY, one off the engine's wait. The queue and
the wait are the model's choice (log 2, log 3): R78 and R146 give neither. -/
def Obligations.StepServesNextTransaction : Prop :=
  ∀ (s : State) (t : Txn) (es : List Event), s.pending = .txn t :: es →
    (s.phase = .idle → step s = exec t.instr { s with pending := es }) ∧
    (∀ w k, s.phase = .busy w → s.engineWait = k + 1 →
      step s = exec t.instr { s with pending := es, engineWait := k })

/-- A step runs the decoded instruction placed for it: a command as an accepted one whose engine step is due, a
transaction as the next one, and nothing else is changed. The block fetches nothing (R81): that an
instruction is placed so, and which bytes a table word stands for, is the model's choice (log 2,
log 12). -/
def Obligations.StepRunsPlacedInstruction : Prop :=
  ∀ (s : State) (nbits w : Nat) (i : Instr), decodeTableWord nbits w = some i →
    step (s.withFetchWord nbits w) =
      match commandWord i with
      | some c => exec i { s with phase := .busy c, status := acceptStatus c, engineWait := 0 }
      | none => exec i s

/-- With the phase IDLE and nothing pending, the block waits unchanged (the model's choice, log 13). -/
def Obligations.IdleBlockWaits : Prop :=
  ∀ s : State, s.phase = .idle → s.pending = [] → step s = .next s

/-- The block cannot hang and nothing stops it (R331): every step of every state answers a next state, and so
does every instruction in every state. That the step of an IDLE block with nothing pending answers the
same state (log 13), and that `exec` performs a command in a phase that is not BUSY (log 9), are the
model's choices. -/
def Obligations.EveryStepAnswersNext : Prop :=
  (∀ s : State, ∃ t, step s = .next t) ∧ (∀ (i : Instr) (s : State), ∃ t, exec i s = .next t)

/-- An accepted command is over after at most the free number of host events that come first and one more step
(R146, R330, R331). With no reset among those events the command completes: they leave the phase, STATUS,
IN, IN_LEN and the capacities alone, the step after them is the engine step of the command's word, and it
leaves the phase IDLE, DONE = 1 and LAST_CMD as it was. A reset among them abandons the command instead
(R321). The bound, and the engine step when no event is pending, are the model's choice (log 3). -/
def Obligations.AcceptedCommandCompletes : Prop :=
  ∀ (s : State) (w : Word), s.phase = .busy w →
    (∃ k t, 1 ≤ k ∧ k ≤ s.engineWait + 1 ∧ Sys2Proof.core.run k s = .next t ∧ t.phase = .idle) ∧
    ((∀ e, e ∈ s.pending.take s.engineWait → e ≠ .reset) →
      ∃ u t : State,
        Sys2Proof.core.run (min s.engineWait s.pending.length) s = .next u ∧
        u.pending = s.pending.drop s.engineWait ∧ u.phase = .busy w ∧ u.status = s.status ∧
        u.inLen = s.inLen ∧ (∀ k, u.inByte k = s.inByte k) ∧ u.params = s.params ∧
        step u = exec (decodeCommand w) u ∧ step u = .next t ∧ t.phase = .idle ∧
        statusDone t.status = true ∧ statusLastCmd t.status = statusLastCmd s.status)

/-- Every step keeps the invariant: STATUS agrees with the phase, reserved bits read 0, register fields
stay in range, ERROR holds an existing code, buffers stay canonical and within capacity, and every
OUT byte a read may see has a value. -/
def Obligations.StepKeepsInvariant : Prop :=
  ∀ s : State, s.Inv → ∃ t, step s = .next t ∧ t.Inv

/-- The state after reset meets the invariant. -/
def Obligations.ResetMeetsInvariant : Prop := State.reset.Inv

/-- R320's values: after reset the phase is IDLE, no host fault is recorded, every register reads 0 but the
three constants, and no OUT byte is readable. -/
def Obligations.ResetState : Prop :=
  State.reset.phase = .idle ∧ State.reset.hostFault = false ∧
    (∀ r : Reg, r ≠ .inCap → r ≠ .outCap → r ≠ .ident → State.reset.reg r = 0) ∧
    State.reset.reg .ident = 0x48554631 ∧
    (State.reset.reg .inCap).toNat = State.reset.params.inCap ∧
    (State.reset.reg .outCap).toNat = State.reset.params.outCap ∧
    (∀ j, State.reset.outByte j = none)

/-- R321: reset may come in any phase; a command in progress is abandoned, and the state is that of R320.
The capacities and the events still to come stay (the model's choice, log 14). -/
def Obligations.ResetAbandonsCommand : Prop :=
  ∀ (s : State) (es : List Event), s.pending = .reset :: es →
    (s.phase = .idle ∨ s.engineWait ≠ 0) →
    ∃ t, step s = .next t ∧ t.phase = .idle ∧ t.hostFault = false ∧ t.params = s.params ∧
      t.pending = es ∧ (∀ j, t.outByte j = none) ∧
      (∀ r : Reg, r ≠ .inCap → r ≠ .outCap → r ≠ .ident → t.reg r = 0)

/-- No step changes the capacities (R30). -/
def Obligations.CapacitiesNeverChange : Prop :=
  ∀ s t : State, step s = .next t → t.params = s.params

/-- The fault mark is set only by a transaction answered SLVERR, and only a reset clears it (R303). -/
def Obligations.HostFaultIsSticky : Prop :=
  ∀ s t : State, step s = .next t →
    (s.hostFault = true → (∀ es, s.pending ≠ .reset :: es) → t.hostFault = true) ∧
    (s.hostFault = false → t.hostFault = true → ∃ d, t.response = some ⟨.slverr, d⟩)

/-- Results stay until the next accepted CMD write (R327, R328): an IDLE step that accepts no command and
takes no reset leaves STATUS, ERROR, ERR_INFO, the result registers, the tables and OUT alone. -/
def Obligations.ResultsStayUntilNextCommand : Prop :=
  ∀ s t : State, s.phase = .idle → step s = .next t → t.phase = .idle →
    (∀ es, s.pending ≠ .reset :: es) → sameResults s t

/-! ## Host transactions -/

/-- A READ32, whatever its offset and the phase, changes the response, the fault mark (on SLVERR) and the
count of drawn values, and nothing else (R73, R140). -/
def Obligations.ReadHasNoSideEffect : Prop :=
  ∀ (off : Offset) (s : State), ∃ r d n,
    exec (.read32 off) s = .next
      { s with
        response := some ⟨r, some d⟩
        hostFault := s.hostFault || decide (r = Resp.slverr)
        draws := n }

/-- While IDLE a read of each register gives its value; CMD reads 0, ID its constant (R34, R35, R43, R48). -/
def Obligations.RegisterReads : Prop :=
  ∀ s : State, s.phase = .idle →
    let reads := fun (off : Offset) (d : Word) =>
      exec (.read32 off) s = .next { s with response := some ⟨.okay, some d⟩ }
    reads 0x000 0 ∧ reads 0x004 s.status ∧ reads 0x008 s.error ∧ reads 0x00C s.errInfo ∧
    reads 0x010 s.inLen ∧ reads 0x014 s.outLen ∧ reads 0x018 s.padLen ∧ reads 0x01C s.hdrLen ∧
    reads 0x020 s.symCount ∧ reads 0x024 s.nodeCount ∧ reads 0x028 s.root ∧
    reads 0x02C s.bitCount ∧ reads 0x030 (BitVec.ofNat 32 s.params.inCap) ∧
    reads 0x034 (BitVec.ofNat 32 s.params.outCap) ∧ reads 0x038 0x48554631

/-- While IDLE and FREQ_VALID = 1, the FREQ window's word of symbol i is its counter (R50). -/
def Obligations.FreqWindowReads : Prop :=
  ∀ (s : State) (i : Fin 256) (off : Offset), s.phase = .idle → statusFreqValid s.status = true →
    off.toNat = 0x1000 + 4 * i.val →
    exec (.read32 off) s = .next { s with response := some ⟨.okay, some s.freq[i]⟩ }

/-- While IDLE and CODE_VALID = 1, the CODE_LEN word is CLEN, and bit 31 - t of CODE_BITS word w is code bit
32 w + t, 0 at or beyond CLEN (R51). -/
def Obligations.CodeWindowsRead : Prop :=
  ∀ (s : State) (i : Fin 256), s.phase = .idle → statusCodeValid s.status = true →
    (∀ off : Offset, off.toNat = 0x1400 + 4 * i.val →
      exec (.read32 off) s =
        .next { s with response := some ⟨.okay, some (s.code[i].clen.setWidth 32)⟩ }) ∧
    (∀ (w : Fin 8) (off : Offset), off.toNat = 0x2000 + 32 * i.val + 4 * w.val →
      ∃ d, exec (.read32 off) s = .next { s with response := some ⟨.okay, some d⟩ } ∧
        ∀ t, t < 32 → d.getLsbD (31 - t) = s.code[i].bits.getD (32 * w.val + t) false)

/-- While IDLE and TREE_VALID = 1, the two words of node i hold its fields where R52 puts them. -/
def Obligations.NodeWindowReads : Prop :=
  ∀ (s : State) (i : Fin 511), s.phase = .idle → statusTreeValid s.status = true →
    (∀ off : Offset, off.toNat = 0x4000 + 8 * i.val →
      exec (.read32 off) s = .next { s with response := some ⟨.okay, some s.node[i].nfreq⟩ }) ∧
    (∀ off : Offset, off.toNat = 0x4004 + 8 * i.val →
      ∃ d, exec (.read32 off) s = .next { s with response := some ⟨.okay, some d⟩ } ∧
        d.getLsbD 31 = s.node[i].valid ∧ d.getLsbD 30 = s.node[i].leaf ∧
        d.extractLsb' 26 4 = 0 ∧ d.extractLsb' 17 9 = s.node[i].right ∧
        d.extractLsb' 8 9 = s.node[i].left ∧ d.extractLsb' 0 8 = s.node[i].sym)

/-- A read of a window whose valid bit is 0 succeeds, with data nothing is said of (R55). -/
def Obligations.InvalidWindowReadSucceeds : Prop :=
  ∀ (s : State) (off : Offset), s.phase = .idle → off.toNat % 4 = 0 →
    (0x1000 ≤ off.toNat ∧ off.toNat < 0x1400 ∧ statusFreqValid s.status = false ∨
      (0x1400 ≤ off.toNat ∧ off.toNat < 0x1800 ∨ 0x2000 ≤ off.toNat ∧ off.toNat < 0x4000) ∧
        statusCodeValid s.status = false ∨
      0x4000 ≤ off.toNat ∧ off.toNat < 0x4FF8 ∧ statusTreeValid s.status = false) →
    ∃ d n, exec (.read32 off) s = .next { s with response := some ⟨.okay, some d⟩, draws := n }

/-- Byte lanes (R70): the word at IN offset 4 m holds byte 4 m + q in bits [8q+7 : 8q], and so does the word
at OUT offset 4 m for every byte that OUT_VALID and OUT_LEN make readable (R54). -/
def Obligations.BufferReadLanes : Prop :=
  ∀ (s : State) (m : Nat), s.phase = .idle →
    (4 * m < s.params.inCap → ∀ off : Offset, off.toNat = 0x100000 + 4 * m →
      ∃ d, exec (.read32 off) s = .next { s with response := some ⟨.okay, some d⟩ } ∧
        ∀ q, q < 4 → d.extractLsb' (8 * q) 8 = s.inByte (4 * m + q)) ∧
    (4 * m < s.params.outCap → ∀ off : Offset, off.toNat = 0x200000 + 4 * m →
      ∃ d n, exec (.read32 off) s = .next { s with response := some ⟨.okay, some d⟩, draws := n } ∧
        ∀ q b, q < 4 → statusOutValid s.status = true → 4 * m + q < s.outLen.toNat →
          Memory.read s.outBuf (4 * m + q) = some b → d.extractLsb' (8 * q) 8 = b)

/-- A WRITE32 to the IN window stores its four bytes, leaves every other byte of IN as it reads, and changes
nothing else but the response (R70, R141). -/
def Obligations.InWriteStoresFourBytes : Prop :=
  ∀ (s : State) (m : Nat) (off : Offset) (data : Word), s.phase = .idle →
    4 * m < s.params.inCap → off.toNat = 0x100000 + 4 * m →
    ∃ t, exec (.write32 off data) s = .next t ∧
      (∀ q, q < 4 → t.inByte (4 * m + q) = data.extractLsb' (8 * q) 8) ∧
      (∀ k, (k < 4 * m ∨ 4 * m + 4 ≤ k) → t.inByte k = s.inByte k) ∧
      (Memory.wf s.inBuf = true → Memory.wf t.inBuf = true) ∧
      t = { s with inBuf := t.inBuf, response := some ⟨.okay, none⟩ }

/-- A WRITE32 to IN_LEN stores the word as written, whatever it is, and changes nothing else but the
response (R39, R141). -/
def Obligations.InLenWriteStoresAnyWord : Prop :=
  ∀ (s : State) (data : Word), s.phase = .idle →
    exec (.write32 0x010 data) s =
      .next { s with inLen := data, response := some ⟨.okay, none⟩ }

/-- Acceptance (R145): a WRITE32 of any word w to CMD while IDLE makes the phase BUSY(w), sets BUSY and
LAST_CMD = w[7:0] and clears every other bit of STATUS; ERROR, ERR_INFO, the result registers, the
tables and the buffers keep their values. How long the engine waits is free (the model's choice, log 3). -/
def Obligations.CmdWriteIsAccepted : Prop :=
  ∀ (s : State) (w : Word), s.phase = .idle →
    ∃ k n, exec (.write32 0x000 w) s = .next
      { s with
        phase := .busy w
        status := ((w &&& 0xFF#32) <<< 8) ||| 1#32
        response := some ⟨.okay, none⟩
        engineWait := k
        draws := n }

/-- R142: a WRITE32 to a mapped read-only offset while IDLE gets OKAY and changes nothing. -/
def Obligations.ReadOnlyWriteIsIgnored : Prop :=
  ∀ (s : State) (off : Offset) (data : Word), s.phase = .idle → mappedReadOnly s.params off →
    exec (.write32 off data) s = .next { s with response := some ⟨.okay, none⟩ }

/-- R143: a transaction at a misaligned or unmapped offset gets SLVERR, changes no state of the block, and is
recorded as a host protocol violation; a READ32's data is some value nothing is said of. -/
def Obligations.BadOffsetGetsSlverr : Prop :=
  ∀ (s : State) (off : Offset) (data : Word), misalignedOrUnmapped s.params off →
    (∃ d n, exec (.read32 off) s = .next
      { s with hostFault := true, response := some ⟨.slverr, some d⟩, draws := n }) ∧
    exec (.write32 off data) s = .next
      { s with hostFault := true, response := some ⟨.slverr, none⟩ }

/-- R144: while BUSY only a READ32 of STATUS gets OKAY; every other transaction gets SLVERR, has no effect on
the block or on the command in progress, and is recorded as a host protocol violation. -/
def Obligations.BusyRefusesAllButStatusRead : Prop :=
  ∀ (s : State) (w : Word), s.phase = .busy w →
    exec (.read32 0x004) s = .next { s with response := some ⟨.okay, some s.status⟩ } ∧
    (∀ off : Offset, off ≠ 0x004 → ∃ d n, exec (.read32 off) s = .next
      { s with hostFault := true, response := some ⟨.slverr, some d⟩, draws := n }) ∧
    (∀ (off : Offset) (data : Word), exec (.write32 off data) s = .next
      { s with hostFault := true, response := some ⟨.slverr, none⟩ })

/-- LOADIN (R106): running its transactions from an IDLE state puts the bytes into IN and their number into
IN_LEN, so that the next command's input is exactly them (R70, R326). -/
def Obligations.LoadInLoadsItsBytes : Prop :=
  ∀ (s : State) (bs : Bytes), s.phase = .idle → bs.length ≤ s.params.inCap →
    s.pending = asEvents (loadIn bs) →
    ∃ t, Sys2Proof.core.run (wordCount bs.length + 1) s = .next t ∧ t.input = bs ∧
      t.phase = .idle ∧ t.hostFault = s.hostFault ∧ t.pending = [] ∧ sameResults s t

/-! ## Commands

`exec` performs a command in every phase, so these hold in states where none was accepted too (the model's
choice, log 9). -/

/-- No command touches IN, IN_LEN, the capacities, the fault mark, the response or the coming events, and
each leaves the phase IDLE (R39, R53, R146, R300). -/
def Obligations.CommandFrame : Prop :=
  ∀ (i : Instr) (s t : State), (commandWord i).isSome = true → exec i s = .next t →
    t.inBuf = s.inBuf ∧ t.epoch = s.epoch ∧ (∀ k, t.inByte k = s.inByte k) ∧ t.inLen = s.inLen ∧
      t.params = s.params ∧ t.hostFault = s.hostFault ∧ t.response = s.response ∧
      t.pending = s.pending ∧ t.engineWait = s.engineWait ∧ t.phase = .idle ∧
      statusLastCmd t.status = statusLastCmd s.status

/-- Every command completes in one of two ways: with ERROR = 0, ERR_INFO = 0, DONE = 1 and ERR = 0 (R148), or
by the error completion of R301 with a code of R290 (in every phase: the model's choice, log 9). -/
def Obligations.CommandCompletion : Prop :=
  ∀ (i : Instr) (s : State), (commandWord i).isSome = true →
    ∃ t, exec i s = .next t ∧ t.phase = .idle ∧
      ((t.error = 0 ∧ t.errInfo = 0 ∧ statusBusy t.status = false ∧ statusDone t.status = true ∧
          statusErr t.status = false ∧ onlyResultsChanged s t) ∨
        (t.error ∈ [0x01#32, 0x02#32, 0x03#32, 0x04#32, 0x10#32, 0x11#32] ∧
          failedWith s t t.error t.errInfo))

/-- ENCODE of a text of 1 to IN_CAP bytes whose artifact fits OUT (R150): OUT holds the header and then the
payload, the registers and tables hold the stages' results, the four valid bits are 1, OUT beyond the
artifact and everything else are unchanged. -/
def Obligations.EncodeSucceeds : Prop :=
  ∀ (s : State), 0 < s.inLen.toNat → s.inLen.toNat ≤ s.params.inCap →
    (encodeText s.input).artifact.length ≤ s.params.outCap →
    let e := encodeText s.input
    ∃ t, exec .encode s = .next t ∧ onlyResultsChanged s t ∧ t.phase = .idle ∧
      t.error = 0 ∧ t.errInfo = 0 ∧ t.status = (s.status &&& ~~~(0x7F#32)) ||| 0x7A#32 ∧
      (∀ j (h : j < (e.header ++ e.payload).length),
        t.outByte j = some ((e.header ++ e.payload)[j])) ∧
      (∀ j, (e.header ++ e.payload).length ≤ j →
        t.outByte j = none ∧ Memory.read t.outBuf j = Memory.read s.outBuf j) ∧
      t.outLen.toNat = e.header.length + e.payload.length ∧ t.hdrLen.toNat = e.header.length ∧
      t.padLen.toNat = padLength e.bits.length ∧ t.bitCount.toNat = e.bits.length ∧
      t.symCount.toNat = (distinctSymbols s.input).length ∧
      t.nodeCount.toNat = e.tree.arena.length ∧ t.root.toNat = e.tree.root ∧
      (∀ b : Fin 256, t.freq[b].toNat = s.input.count (BitVec.ofFin b)) ∧
      t.node = nodeTable e.tree ∧ t.code = codeTable e.codes

/-- ENCODE's errors in their order (R297): CAPACITY(0) for IN_LEN above IN_CAP, EMPTY_INPUT(0) for IN_LEN = 0,
CAPACITY(total) for an artifact longer than OUT_CAP. -/
def Obligations.EncodeErrorsInOrder : Prop :=
  ∀ s : State,
    (s.params.inCap < s.inLen.toNat → ∃ t, exec .encode s = .next t ∧ failedWith s t 0x10 0) ∧
    (s.inLen.toNat = 0 → ∃ t, exec .encode s = .next t ∧ failedWith s t 0x01 0) ∧
    (0 < s.inLen.toNat → s.inLen.toNat ≤ s.params.inCap →
      s.params.outCap < (encodeText s.input).artifact.length →
      ∃ t, exec .encode s = .next t ∧
        failedWith s t 0x10 (BitVec.ofNat 32 (encodeText s.input).artifact.length))

/-- DECODE of an artifact whose header parses and whose bits decode (R151): OUT holds the text, CODE the parsed
table, the registers what was parsed, OUT_VALID and CODE_VALID are 1 and FREQ_VALID and TREE_VALID 0;
FREQ, NODE, OUT beyond the text and everything else are unchanged. -/
def Obligations.DecodeSucceeds : Prop :=
  ∀ (s : State) (h : Header) (text : Bytes), s.inLen.toNat ≤ s.params.inCap →
    parseHeader s.input = .ok h →
    decodeBits s.params.outCap h.table (unpack h.payload h.pad) = .ok text →
    ∃ t, exec .decode s = .next t ∧ onlyResultsChanged s t ∧ t.phase = .idle ∧
      t.error = 0 ∧ t.errInfo = 0 ∧ t.status = (s.status &&& ~~~(0x7F#32)) ||| 0x4A#32 ∧
      (∀ j (hj : j < text.length), t.outByte j = some text[j]) ∧
      (∀ j, text.length ≤ j →
        t.outByte j = none ∧ Memory.read t.outBuf j = Memory.read s.outBuf j) ∧
      t.outLen.toNat = text.length ∧ t.padLen.toNat = h.pad ∧ t.hdrLen.toNat = h.length ∧
      t.symCount.toNat = h.table.length ∧ t.nodeCount = 0 ∧ t.root = 0 ∧
      t.bitCount.toNat = 8 * h.payload.length - h.pad ∧
      t.code = codeTable h.table ∧ t.freq = s.freq ∧ t.node = s.node

/-- DECODE's errors in their order (R298): CAPACITY(0) for IN_LEN above IN_CAP, then the header's first error,
then the decoder's. -/
def Obligations.DecodeErrorsInOrder : Prop :=
  ∀ s : State,
    (s.params.inCap < s.inLen.toNat → ∃ t, exec .decode s = .next t ∧ failedWith s t 0x10 0) ∧
    (∀ e, s.inLen.toNat ≤ s.params.inCap → parseHeader s.input = .error e →
      ∃ t, exec .decode s = .next t ∧ failedWith s t (e.kind.code.setWidth 32) e.info) ∧
    (∀ h e, s.inLen.toNat ≤ s.params.inCap → parseHeader s.input = .ok h →
      decodeBits s.params.outCap h.table (unpack h.payload h.pad) = .error e →
      ∃ t, exec .decode s = .next t ∧ failedWith s t (e.kind.code.setWidth 32) e.info)

/-- CLEAR (R152, R148): the seven result registers, ERROR, ERR_INFO and the valid bits become 0, DONE 1;
IN, IN_LEN, OUT, the tables and everything else stay. After an acceptance the valid bits are 0 already;
that CLEAR writes them 0 in other states is the model's reading (log 10). -/
def Obligations.ClearCompletes : Prop :=
  ∀ s : State, exec .clear s = .next
    { s with
      phase := .idle
      status := (s.status &&& ~~~(0x7F#32)) ||| 0x02#32
      error := 0
      errInfo := 0
      outLen := 0
      padLen := 0
      hdrLen := 0
      symCount := 0
      nodeCount := 0
      root := 0
      bitCount := 0 }

/-- An illegal command (R153): always ILLEGAL_COMMAND, ERR_INFO the whole word, by the error completion. -/
def Obligations.IllegalCommandFails : Prop :=
  ∀ (s : State) (w : Word), ∃ t, exec (.illegal w) s = .next t ∧ failedWith s t 0x11 w

/-- STATUS after an accepted command: 0x17A, 0x24A and 0x302 when ENCODE, DECODE and CLEAR succeed, and
(w[7:0] << 8) | 0x06 when the command of word w ends in an error (R36, R148, R150 to R152, R301). -/
def Obligations.StatusAfterCommands : Prop :=
  ∀ s t : State,
    (s.status = acceptStatus 0x00000001 → exec .encode s = .next t → t.error = 0 →
      t.status = 0x0000017A) ∧
    (s.status = acceptStatus 0x00000002 → exec .decode s = .next t → t.error = 0 →
      t.status = 0x0000024A) ∧
    (s.status = acceptStatus 0x00000003 → exec .clear s = .next t → t.status = 0x00000302) ∧
    (∀ (i : Instr) (w : Word), (commandWord i).isSome = true → s.status = acceptStatus w →
      exec i s = .next t → t.error ≠ 0 → t.status = ((w &&& 0xFF#32) <<< 8) ||| 0x06#32)

/-- The engine step is a function of IN_LEN, the input bytes and the word alone (R57, R146): from two states that
agree on these, on the capacities and on STATUS, a command shows the host the same results, whatever
the tables, OUT and the unused IN bytes were. -/
def Obligations.ResultsDependOnInputAlone : Prop :=
  ∀ (i : Instr) (s u s' u' : State), (commandWord i).isSome = true →
    s.params = u.params → s.status = u.status → s.inLen = u.inLen →
    (∀ k, k < s.inLen.toNat → s.inByte k = u.inByte k) →
    exec i s = .next s' → exec i u = .next u' → sameShown s' u'

/-! ## The encoder's stages -/

/-- R181: the symbols with a nonzero counter are exactly the distinct symbols of the text, and the counters
sum to its length. -/
def Obligations.FrequenciesCountTheText : Prop :=
  ∀ text : Bytes, text.length ≤ 2 ^ 20 →
    (∀ s : Fin 256, (frequencyTable text)[s].toNat = text.count (BitVec.ofFin s)) ∧
    (∀ s : Fin 256, 0 < (frequencyTable text)[s].toNat ↔ BitVec.ofFin s ∈ text) ∧
    ((List.finRange 256).map fun s => (frequencyTable text)[s].toNat).sum = text.length

/-- Selection (R192): the first selected index has the lowest pair (NFREQ, index) of the collection, the second
the lowest of the rest; nothing is selected from fewer than two. -/
def Obligations.SelectionTakesTheLowest : Prop :=
  ∀ (arena : List Node) (w : List Nat), w.Nodup →
    let freq := fun i => (nodeFreq arena i).toNat
    let lower := fun i j => freq i < freq j ∨ freq i = freq j ∧ i < j
    (selectTwo arena w = none ↔ w.length < 2) ∧
    (∀ x y, selectTwo arena w = some (x, y) →
      x ∈ w ∧ y ∈ w ∧ lower x y ∧ ∀ z, z ∈ w → z ≠ x → z ≠ y → lower y z)

/-- R190, R196: for m distinct symbols the arena holds 2 m - 1 nodes. Node i < m is the leaf of the i-th distinct
symbol in ascending value, with that symbol's count; the nodes from m on are internal, the root is the last
one, and an index beyond the arena reads as zero words. -/
def Obligations.TreeSizes : Prop :=
  ∀ text : Bytes, text ≠ [] → text.length ≤ 2 ^ 20 →
    let tree := buildTree (frequencyTable text)
    let m := (distinctSymbols text).length
    1 ≤ m ∧ m ≤ 256 ∧ tree.arena.length = 2 * m - 1 ∧ tree.root = 2 * m - 2 ∧
      tree.arena.take m = (distinctSymbols text).map (fun b =>
        { nfreq := BitVec.ofNat 32 (text.count b), valid := true, leaf := true, left := 0, right := 0,
          sym := b }) ∧
      (∀ i (h : i < tree.arena.length), (tree.arena[i].leaf = true ↔ i < m) ∧
        tree.arena[i].valid = true) ∧
      (∀ i : Fin 511, tree.arena.length ≤ i.val → (nodeTable tree)[i] = Node.unused)

/-- R193, R194: the working collection starts as the m leaves' indices and ends as the root's alone; merge k makes
node m + k, whose LEFT and RIGHT are the first and the second index selected from the collection and whose
frequency is the sum of theirs, and the collection loses both and gains the new index. R198: every internal
node's frequency is the sum of its children's, which have lower indices; the root's is the text's length;
every other index is the child of exactly one internal node; no code is longer than the number of symbols
less one, when there are two or more. -/
def Obligations.TreeShape : Prop :=
  ∀ text : Bytes, text ≠ [] → text.length ≤ 2 ^ 20 →
    let tree := buildTree (frequencyTable text)
    let m := (distinctSymbols text).length
    (∃ w : Nat → List Nat, w 0 = List.range m ∧ w (m - 1) = [tree.root] ∧
      ∀ k, k < m - 1 → (w k).Nodup ∧ ∃ x y,
        selectTwo tree.arena (w k) = some (x, y) ∧
        tree.arena[m + k]? = some
          { nfreq := nodeFreq tree.arena x + nodeFreq tree.arena y, valid := true, leaf := false,
            left := BitVec.ofNat 9 x, right := BitVec.ofNat 9 y, sym := 0 } ∧
        w (k + 1) = ((w k).erase x).erase y ++ [m + k]) ∧
    (nodeFreq tree.arena tree.root).toNat = text.length ∧
    (∀ i (h : i < tree.arena.length), tree.arena[i].leaf = false →
      tree.arena[i].left.toNat < i ∧ tree.arena[i].right.toNat < i ∧
      tree.arena[i].nfreq.toNat = (nodeFreq tree.arena tree.arena[i].left.toNat).toNat +
        (nodeFreq tree.arena tree.arena[i].right.toNat).toNat) ∧
    (∀ j, j < tree.arena.length → j ≠ tree.root →
      (tree.arena.map fun n =>
        if n.leaf then 0
        else (if n.left.toNat = j then 1 else 0) + (if n.right.toNat = j then 1 else 0)).sum = 1) ∧
    (∀ e, e ∈ codeList tree → 2 ≤ m → e.2.length ≤ m - 1)

/-- R211: a text of one distinct symbol gives that symbol the code "0" and no other symbol a code. -/
def Obligations.SingleSymbolCode : Prop :=
  ∀ (s : Byte) (n : Nat), 0 < n → n ≤ 2 ^ 20 →
    (encodeText (List.replicate n s)).codes = [(s, [false])] ∧
    ∀ b : Fin 256, (codeTable (encodeText (List.replicate n s)).codes)[b] =
      if BitVec.ofFin b = s then CodeEntry.ofBits [false] else CodeEntry.absent

/-- R214: every symbol of the text receives exactly one code and no other symbol one; every code has 1 to 255
bits, which the CODE table stores; the codes are prefix-free; with two or more symbols a code is the path
from the root to its symbol's leaf, bit 0 to the left and bit 1 to the right. -/
def Obligations.CodeTableGuarantees : Prop :=
  ∀ text : Bytes, text ≠ [] → text.length ≤ 2 ^ 20 →
    let tree := (encodeText text).tree
    let codes := (encodeText text).codes
    (∀ b : Byte, b ∈ text ↔ ∃ c, (b, c) ∈ codes) ∧
    prefixFree codes = true ∧ codeLengthsLegal codes = true ∧
    (2 ≤ (distinctSymbols text).length →
      ∀ b c, (b, c) ∈ codes → pathLeadsTo tree.arena tree.root c b) ∧
    (∀ b : Fin 256, (codeTable codes)[b].bits = codeOf codes (BitVec.ofFin b))

/-- R215: for two or more symbols the code lengths satisfy Kraft's equality. -/
def Obligations.CodeTableIsComplete : Prop :=
  ∀ text : Bytes, text.length ≤ 2 ^ 20 → (∃ a b, a ∈ text ∧ b ∈ text ∧ a ≠ b) →
    ((encodeText text).codes.map fun e => 2 ^ (255 - e.2.length)).sum = 2 ^ 255

/-! ## Packer, header, decoder -/

/-- R221, R223: pad is the smallest number that makes the bit count a multiple of 8, and the payload holds
exactly the bits and the filler. -/
def Obligations.PadLengthIsLeast : Prop :=
  ∀ bits : Bits,
    padLength bits.length < 8 ∧ (bits.length + padLength bits.length) % 8 = 0 ∧
      (∀ p, (bits.length + p) % 8 = 0 → padLength bits.length ≤ p) ∧
      (padLength bits.length = 0 ↔ bits.length % 8 = 0) ∧
      8 * (pack bits).length = bits.length + padLength bits.length

/-- R222: bit i of the string is bit 7 - i mod 8 of byte i div 8, and the filler bits are 0. -/
def Obligations.PackPlacesBits : Prop :=
  ∀ (bits : Bits) (i : Nat), i < 8 * (pack bits).length →
    ((pack bits).getD (i / 8) 0).getLsbD (7 - i % 8) = bits.getD i false

/-- R227: unpacking what was packed gives the bits back. -/
def Obligations.UnpackOfPack : Prop :=
  ∀ bits : Bits, unpack (pack bits) (padLength bits.length) = bits

/-- R225: the values of the filler bits are not examined. -/
def Obligations.FillerBitsAreIgnored : Prop :=
  ∀ (payload : Bytes) (b b' : Byte) (pad : Nat), pad ≤ 8 → b >>> pad = b' >>> pad →
    unpack (payload ++ [b]) pad = unpack (payload ++ [b']) pad

/-- R112, R113, R240: a written header is the grammar's text of the text's distinct symbols in ascending value, each
with its code, and of the one digit 0x30 + pad; ENCODE's has the pad length of its bits. R116: it has 8 bytes
and the code's length per pair, and 9 bytes at the end; the artifact has the bits' bytes besides. -/
def Obligations.HeaderLength : Prop :=
  ∀ text : Bytes, text ≠ [] → text.length ≤ 2 ^ 20 →
    let e := encodeText text
    let pairs := (distinctSymbols text).map fun b => (b, codeOf e.codes b)
    (∀ pad, pad ≤ 7 →
      serializeHeader e.codes pad = headerText pairs [BitVec.ofNat 8 (0x30 + pad)]) ∧
      e.header = headerText pairs [BitVec.ofNat 8 (0x30 + padLength e.bits.length)] ∧
      e.header.length = (e.codes.map fun c => c.2.length + 8).sum + 9 ∧
      e.artifact.length = e.header.length + (e.bits.length + 7) / 8

/-- The deserialiser accepts exactly the grammar of R110: pairs that are prefix-free with codes of 1 to 255
bits, one or more digits writing a pad of at most 7 and at most the payload's bits, and then the
payload; and it returns them (R241 to R250). -/
def Obligations.ParserAcceptsTheGrammar : Prop :=
  ∀ (artifact : Bytes) (h : Header),
    parseHeader artifact = .ok h ↔
      ∃ digits : Bytes, digits ≠ [] ∧ digits.all isDigit = true ∧ decimalValue digits = h.pad ∧
        h.pad ≤ 7 ∧ h.pad ≤ 8 * h.payload.length ∧ prefixFree h.table = true ∧
        codeLengthsLegal h.table = true ∧ h.length = (headerText h.table digits).length ∧
        artifact = headerText h.table digits ++ h.payload

/-- Header errors are HEADER_PARSE or INVALID_BIT (R290); each records an offset of at most n; INVALID_BIT records
the offset of a byte that is no `0`, `1` or SP (R294); the empty artifact fails with HEADER_PARSE(0)
(R243). After the pairs of any table that passed the checks, each check of R292 and R294 fails with its
own offset: the end of the artifact where a pair should start; the first byte that differs from ` --`; the
end inside a code; a 256th code character; a byte outside the alphabet; the SP of an empty code; the first
byte that differs from ` Nx `; the symbol of a pair that repeats a symbol or conflicts with a code, once
its separator is matched; after the table's `END`, a missing SP; the place of a missing first digit; the first
byte that differs from ` END`; the first digit of a pad above 7; the payload's start for a pad above its
bits. -/
def Obligations.ParserErrors : Prop :=
  parseHeader [] = .error ⟨.headerParse, 0⟩ ∧
  (∀ (artifact : Bytes) (e : CmdError), artifact.length ≤ 2 ^ 20 → parseHeader artifact = .error e →
    e.info.toNat ≤ artifact.length ∧
      (e.kind = .headerParse ∨
        e.kind = .invalidBit ∧ ∃ b, artifact[e.info.toNat]? = some b ∧
          b ≠ 0x30 ∧ b ≠ 0x31 ∧ b ≠ 0x20)) ∧
  ∀ table : CodeList, prefixFree table = true → codeLengthsLegal table = true →
    headerFails table [] .headerParse 0 ∧
    (∀ s rest d, (s :: rest).take 3 ≠ endText → differsAt dashesText rest d →
      headerFails table (s :: rest) .headerParse (1 + d)) ∧
    (∀ s c, c.length ≤ 255 →
      headerFails table (s :: (dashesText ++ codeText c)) .headerParse (4 + c.length)) ∧
    (∀ s c b rest, c.length = 255 →
      headerFails table (s :: (dashesText ++ codeText c ++ codeText [b] ++ rest)) .headerParse 259) ∧
    (∀ s c x rest, c.length ≤ 255 → x ≠ 0x30#8 → x ≠ 0x31#8 → x ≠ 0x20#8 →
      headerFails table (s :: (dashesText ++ codeText c ++ x :: rest)) .invalidBit (4 + c.length)) ∧
    (∀ s rest, headerFails table (s :: (dashesText ++ 0x20#8 :: rest)) .headerParse 4) ∧
    (∀ s c rest d, 1 ≤ c.length → c.length ≤ 255 → 1 ≤ d → differsAt separatorText rest d →
      headerFails table (s :: (dashesText ++ codeText c ++ rest)) .headerParse (4 + c.length + d)) ∧
    (∀ s c rest, 1 ≤ c.length → c.length ≤ 255 → prefixFree (table ++ [(s, c)]) = false →
      headerFails table (pairText s c ++ rest) .headerParse 0) ∧
    (∀ rest, rest.head? ≠ some 0x20#8 → headerFails table (endText ++ rest) .headerParse 3) ∧
    (∀ rest, noDigitFirst rest → headerFails table (endText ++ 0x20#8 :: rest) .headerParse 4) ∧
    (∀ (digits rest : Bytes) (d : Nat), digits ≠ [] → digits.all isDigit = true → noDigitFirst rest →
      differsAt (0x20#8 :: endText) rest d →
      headerFails table (endText ++ 0x20#8 :: (digits ++ rest)) .headerParse (4 + digits.length + d)) ∧
    (∀ digits payload : Bytes, digits ≠ [] → digits.all isDigit = true → 7 < decimalValue digits →
      headerFails table (endText ++ 0x20#8 :: (digits ++ 0x20#8 :: (endText ++ payload)))
        .headerParse 4) ∧
    (∀ digits payload : Bytes, digits ≠ [] → digits.all isDigit = true → decimalValue digits ≤ 7 →
      8 * payload.length < decimalValue digits →
      headerFails table (endText ++ 0x20#8 :: (digits ++ 0x20#8 :: (endText ++ payload))) .headerParse
        (8 + digits.length))

/-- R253: for every code table ENCODE produces and every pad and payload with pad at most the payload's bits,
parsing the serialised header gives the pad, the payload's offset and a table with the same codes. -/
def Obligations.HeaderRoundTrip : Prop :=
  ∀ (text payload : Bytes) (pad : Nat), text ≠ [] → text.length ≤ 2 ^ 20 → pad ≤ 7 →
    pad ≤ 8 * payload.length →
    let codes := (encodeText text).codes
    ∃ table, parseHeader (serializeHeader codes pad ++ payload) =
        .ok ⟨table, pad, (serializeHeader codes pad).length, payload⟩ ∧
      (∀ b, codeOf table b = codeOf codes b) ∧ codeTable table = codeTable codes

/-- What the decoder answers on any bits with a prefix-free table (R270 to R273): a text of at most OUT_CAP
symbols whose codes are exactly the bits; or, after the codes of some symbols, TRUNCATED_STREAM at
remaining bits that no code begins, or CAPACITY at a code when OUT_CAP symbols are already emitted; the
value recorded is the bit index where the remaining bits begin. -/
def Obligations.DecoderOutcomes : Prop :=
  ∀ (cap : Nat) (table : CodeList) (bits : Bits), prefixFree table = true →
    codeLengthsLegal table = true →
    match decodeBits cap table bits with
    | .ok text => text.length ≤ cap ∧ concatCodes table text = bits ∧
        ∀ b, b ∈ text → codeOf table b ≠ []
    | .error e => ∃ text rest, bits = concatCodes table text ++ rest ∧
        (∀ b, b ∈ text → codeOf table b ≠ []) ∧
        e.info = BitVec.ofNat 32 (concatCodes table text).length ∧
        (e.kind = .truncatedStream ∧ text.length ≤ cap ∧ rest ≠ [] ∧
            (∀ p, p ∈ table → p.2.isPrefixOf rest = false) ∨
          e.kind = .capacity ∧ text.length = cap ∧ ∃ p, p ∈ table ∧ p.2.isPrefixOf rest = true)

/-- Decoding the concatenated codes of a text that fits OUT gives the text (R270, R271). -/
def Obligations.DecodeOfConcatenation : Prop :=
  ∀ (cap : Nat) (table : CodeList) (text : Bytes), prefixFree table = true →
    codeLengthsLegal table = true → (∀ b, b ∈ text → ∃ c, (b, c) ∈ table) → text.length ≤ cap →
    decodeBits cap table (concatCodes table text) = .ok text

/-- R274: walking the decode trie gives the same text and the same error and value as the table match. -/
def Obligations.TrieDecoderAgrees : Prop :=
  ∀ (cap : Nat) (table : CodeList) (bits : Bits), prefixFree table = true →
    codeLengthsLegal table = true → trieDecode cap table bits = decodeBits cap table bits

/-- R277: ENCODE of a text, its artifact copied to IN, then DECODE, leaves the text in OUT and the same CODE
table. -/
def Obligations.CodecRoundTrip : Prop :=
  ∀ s t u : State, 1 ≤ s.inLen.toNat → s.inLen.toNat ≤ s.params.inCap →
    s.inLen.toNat ≤ s.params.outCap → exec .encode s = .next t → t.error = 0 →
    u.params = s.params → t.outLen.toNat ≤ u.params.inCap → u.inLen = t.outLen →
    (∀ j, j < t.outLen.toNat → t.outByte j = some (u.inByte j)) →
    ∃ v, exec .decode u = .next v ∧ v.error = 0 ∧ v.outLen = s.inLen ∧
      (∀ k, k < s.inLen.toNat → v.outByte k = some (s.inByte k)) ∧ v.code = t.code
end

