-- ==== Sys2Proof/Laws/Flags.lean ====
section
/-! SUPPORT. What each STATUS operation does to each bit of STATUS (10_state.md rule R36). -/

namespace Sys2Proof.Machine

theorem oneHot_getElem (i j : Nat) (hj : j < 32) : (1#32 <<< i)[j] = decide (j = i) := by
  rw [← BitVec.getLsbD_eq_getElem, BitVec.getLsbD_shiftLeft, BitVec.getLsbD_one]
  rcases Nat.lt_trichotomy j i with h | h | h
  · have : j ≠ i := by omega
    simp [h, this]
  · subst h; simp [hj]
  · have h1 : ¬ j < i := by omega
    have h2 : j - i ≠ 0 := by omega
    have h3 : j ≠ i := by omega
    simp [h2, h3]

/-- A word with one bit set or cleared, bit by bit. -/
theorem setBit_getElem (w : Word) (i : Nat) (b : Bool) (j : Nat) (hj : j < 32) :
    (setBit w i b)[j] = if j = i then b else w[j] := by
  unfold setBit
  cases b
  · simp only [Bool.false_eq_true, if_false, BitVec.getElem_and, BitVec.getElem_not, oneHot_getElem]
    by_cases h : j = i <;> simp [h]
  · simp only [if_true, BitVec.getElem_or, oneHot_getElem]
    by_cases h : j = i <;> simp [h]

/-- STATUS after its valid bits are set, bit by bit. -/
theorem validStatus_getElem (st : Word) (o f t c : Bool) (j : Nat) (hj : j < 32) :
    (validStatus st o f t c)[j] =
      if j = 6 then c else if j = 5 then t else if j = 4 then f else if j = 3 then o else st[j] := by
  simp only [validStatus, setBit_getElem]

/-- STATUS after a completion, bit by bit. -/
theorem completeStatus_getElem (st : Word) (e : Bool) (j : Nat) (hj : j < 32) :
    (completeStatus st e)[j] =
      if j = 2 then e else if j = 1 then true else if j = 0 then false else st[j] := by
  simp only [completeStatus, setBit_getElem]

/-- STATUS after acceptance, bit by bit (R145). -/
theorem acceptStatus_getElem (w : Word) (j : Nat) (hj : j < 32) :
    (acceptStatus w)[j] =
      if j = 0 then true else if j < 8 then false else if j < 16 then w.getLsbD (j - 8) else false := by
  unfold acceptStatus
  rw [← BitVec.getLsbD_eq_getElem, BitVec.getLsbD_or, BitVec.getLsbD_shiftLeft,
    BitVec.getLsbD_setWidth, BitVec.getLsbD_setWidth, BitVec.getLsbD_one]
  by_cases h0 : j = 0
  · subst h0; simp
  · by_cases h8 : j < 8
    · simp [h0, h8]
    · by_cases h16 : j < 16
      · have h1 : j - 8 < 8 := by omega
        have h2 : j - 8 < 32 := by omega
        simp [h0, h8, h16, h1, h2, hj]
      · have h1 : ¬ j - 8 < 8 := by omega
        simp [h0, h8, h16, h1]

/-- Two STATUS words with the same bits are the same word. -/
theorem status_ext {a b : Word} (h : ∀ j, j < 32 → a.getLsbD j = b.getLsbD j) : a = b :=
  BitVec.eq_of_getLsbD_eq fun j hj => h j hj

@[simp] theorem statusBusy_accept (w : Word) : statusBusy (acceptStatus w) = true := by
  simp [statusBusy, acceptStatus_getElem]

@[simp] theorem statusErr_accept (w : Word) : statusErr (acceptStatus w) = false := by
  simp [statusErr, acceptStatus_getElem]

@[simp] theorem statusOutValid_accept (w : Word) : statusOutValid (acceptStatus w) = false := by
  simp [statusOutValid, acceptStatus_getElem]

@[simp] theorem statusFreqValid_accept (w : Word) : statusFreqValid (acceptStatus w) = false := by
  simp [statusFreqValid, acceptStatus_getElem]

@[simp] theorem statusTreeValid_accept (w : Word) : statusTreeValid (acceptStatus w) = false := by
  simp [statusTreeValid, acceptStatus_getElem]

@[simp] theorem statusCodeValid_accept (w : Word) : statusCodeValid (acceptStatus w) = false := by
  simp [statusCodeValid, acceptStatus_getElem]

@[simp] theorem statusBusy_complete (st : Word) (e : Bool) :
    statusBusy (completeStatus st e) = false := by
  simp [statusBusy, completeStatus_getElem]

@[simp] theorem statusDone_complete (st : Word) (e : Bool) :
    statusDone (completeStatus st e) = true := by
  simp [statusDone, completeStatus_getElem]

@[simp] theorem statusErr_complete (st : Word) (e : Bool) : statusErr (completeStatus st e) = e := by
  simp [statusErr, completeStatus_getElem]

@[simp] theorem statusOutValid_complete (st : Word) (e : Bool) :
    statusOutValid (completeStatus st e) = statusOutValid st := by
  simp [statusOutValid, completeStatus_getElem]

@[simp] theorem statusFreqValid_complete (st : Word) (e : Bool) :
    statusFreqValid (completeStatus st e) = statusFreqValid st := by
  simp [statusFreqValid, completeStatus_getElem]

@[simp] theorem statusTreeValid_complete (st : Word) (e : Bool) :
    statusTreeValid (completeStatus st e) = statusTreeValid st := by
  simp [statusTreeValid, completeStatus_getElem]

@[simp] theorem statusCodeValid_complete (st : Word) (e : Bool) :
    statusCodeValid (completeStatus st e) = statusCodeValid st := by
  simp [statusCodeValid, completeStatus_getElem]

@[simp] theorem statusOutValid_valid (st : Word) (o f t c : Bool) :
    statusOutValid (validStatus st o f t c) = o := by
  simp [statusOutValid, validStatus_getElem]

@[simp] theorem statusFreqValid_valid (st : Word) (o f t c : Bool) :
    statusFreqValid (validStatus st o f t c) = f := by
  simp [statusFreqValid, validStatus_getElem]

@[simp] theorem statusTreeValid_valid (st : Word) (o f t c : Bool) :
    statusTreeValid (validStatus st o f t c) = t := by
  simp [statusTreeValid, validStatus_getElem]

@[simp] theorem statusCodeValid_valid (st : Word) (o f t c : Bool) :
    statusCodeValid (validStatus st o f t c) = c := by
  simp [statusCodeValid, validStatus_getElem]

end Sys2Proof.Machine
end

