-- ==== Sys2Proof/Laws/Memory.lean ====
section
/-! SUPPORT. The laws of byte buffers: a read after a write, and that every buffer operation keeps the
canonical form and the capacity bound. -/

namespace Sys2Proof.Machine

@[simp] theorem Memory.read_nil (k : Nat) : Memory.read [] k = none := rfl

/-- A read after a write, at every index. -/
theorem Memory.read_write (m : Memory) (k : Nat) (v : Byte) (j : Nat) :
    Memory.read (Memory.write m k v) j = if j = k then some v else Memory.read m j := by
  induction m with
  | nil => simp [Memory.write, Memory.read, eq_comm]
  | cons c m ih =>
    obtain ⟨a, b⟩ := c
    rcases Nat.lt_trichotomy k a with h | h | h
    · by_cases hj : k = j
      · subst hj
        simp [Memory.write, Memory.read, h]
      · simp [Memory.write, Memory.read, h, hj, Ne.symm hj]
    · subst h
      by_cases hj : k = j
      · simp [Memory.write, Memory.read, hj]
      · simp [Memory.write, Memory.read, hj, Ne.symm hj]
    · have h1 : ¬ k < a := by omega
      have h2 : ¬ k = a := by omega
      simp only [Memory.write, if_neg h1, if_neg h2, Memory.read, ih]
      by_cases haj : a = j
      · have hjk : ¬ j = k := by omega
        simp [haj, hjk]
      · simp [haj]

/-- A read after a write to the same index gives the byte written. -/
@[simp] theorem Memory.read_write_same (m : Memory) (k : Nat) (v : Byte) :
    Memory.read (Memory.write m k v) k = some v := by
  simp [Memory.read_write]

/-- A write leaves every other index alone. -/
theorem Memory.read_write_other (m : Memory) (v : Byte) {k j : Nat} (h : j ≠ k) :
    Memory.read (Memory.write m k v) j = Memory.read m j := by
  simp [Memory.read_write, h]

/-- Reading after a byte string is stored: its own bytes within it, the old ones outside. -/
theorem Memory.read_writeBytes (bs : Bytes) (m : Memory) (k j : Nat) :
    Memory.read (Memory.writeBytes m k bs) j =
      if h : k ≤ j ∧ j < k + bs.length then some (bs[j - k]'(by omega)) else Memory.read m j := by
  induction bs generalizing m k with
  | nil => simp only [Memory.writeBytes, List.length_nil]; split <;> [omega; rfl]
  | cons b bs ih =>
    rw [Memory.writeBytes, ih, Memory.read_write]
    by_cases hj : j = k
    · subst hj
      simp
    · by_cases hin : k + 1 ≤ j ∧ j < k + 1 + bs.length
      · have hin' : k ≤ j ∧ j < k + (b :: bs).length := by simp; omega
        have hsub : j - k = (j - (k + 1)) + 1 := by omega
        simp only [hin, hin', hsub, and_self, dite_true, List.getElem_cons_succ]
      · have hout : ¬ (k ≤ j ∧ j < k + (b :: bs).length) := by simp; omega
        simp only [hin, hout, hj, dite_false, if_false]

theorem Memory.risingAbove_cons (lo : Option Nat) (a : Nat) (b : Byte) (m : Memory) :
    Memory.risingAbove lo ((a, b) :: m) = true ↔
      (∀ l, lo = some l → l < a) ∧ Memory.risingAbove (some a) m = true := by
  cases lo <;> simp [Memory.risingAbove]

/-- The indices after a write rise from where they rose before, if the index written lies there. -/
theorem Memory.risingAbove_write {lo : Option Nat} {m : Memory} (k : Nat) (v : Byte)
    (hm : Memory.risingAbove lo m = true) (hk : ∀ l, lo = some l → l < k) :
    Memory.risingAbove lo (Memory.write m k v) = true := by
  induction m generalizing lo with
  | nil => exact (Memory.risingAbove_cons lo k v []).2 ⟨hk, rfl⟩
  | cons c m ih =>
    obtain ⟨a, b⟩ := c
    obtain ⟨hlo, htail⟩ := (Memory.risingAbove_cons lo a b m).1 hm
    rw [Memory.write]
    split
    · next h =>
      refine (Memory.risingAbove_cons _ _ _ _).2 ⟨hk, (Memory.risingAbove_cons _ _ _ _).2 ⟨?_, htail⟩⟩
      rintro l ⟨⟩; exact h
    · split
      · next h => subst h; exact (Memory.risingAbove_cons _ _ _ _).2 ⟨hk, htail⟩
      · next h1 h2 =>
        refine (Memory.risingAbove_cons _ _ _ _).2 ⟨hlo, ih htail ?_⟩
        rintro l ⟨⟩
        omega

/-- A write keeps the canonical form. -/
theorem Memory.write_wf {m : Memory} (k : Nat) (v : Byte) (h : Memory.wf m = true) :
    Memory.wf (Memory.write m k v) = true :=
  Memory.risingAbove_write k v h (by simp)

/-- Storing a byte string keeps the canonical form. -/
theorem Memory.writeBytes_wf (bs : Bytes) {m : Memory} (k : Nat) (h : Memory.wf m = true) :
    Memory.wf (Memory.writeBytes m k bs) = true := by
  induction bs generalizing m k with
  | nil => exact h
  | cons b bs ih => exact ih (k + 1) (Memory.write_wf k b h)

theorem Memory.below_cons (a : Nat) (b : Byte) (m : Memory) (cap : Nat) :
    Memory.below ((a, b) :: m) cap = true ↔ a < cap ∧ Memory.below m cap = true := by
  rw [Memory.below, List.all_cons, Bool.and_eq_true, decide_eq_true_iff]
  exact Iff.rfl

/-- A write below a capacity keeps the buffer below it. -/
theorem Memory.write_below {m : Memory} {cap k : Nat} (v : Byte)
    (h : Memory.below m cap = true) (hk : k < cap) :
    Memory.below (Memory.write m k v) cap = true := by
  induction m with
  | nil => exact (Memory.below_cons _ _ _ _).2 ⟨hk, h⟩
  | cons c m ih =>
    obtain ⟨a, b⟩ := c
    obtain ⟨ha, hm⟩ := (Memory.below_cons _ _ _ _).1 h
    rw [Memory.write]
    split
    · exact (Memory.below_cons _ _ _ _).2 ⟨hk, h⟩
    · split
      · exact (Memory.below_cons _ _ _ _).2 ⟨hk, hm⟩
      · exact (Memory.below_cons _ _ _ _).2 ⟨ha, ih hm⟩

/-- Storing a byte string that ends within a capacity keeps the buffer below it. -/
theorem Memory.writeBytes_below (bs : Bytes) {m : Memory} {cap k : Nat}
    (h : Memory.below m cap = true) (hk : k + bs.length ≤ cap) :
    Memory.below (Memory.writeBytes m k bs) cap = true := by
  induction bs generalizing m k with
  | nil => exact h
  | cons b bs ih =>
    simp only [List.length_cons] at hk
    exact ih (Memory.write_below b h (by omega)) (by omega)

/-- After reset both buffers are in canonical form. -/
theorem State.reset_buffers_wf :
    Memory.wf State.reset.inBuf = true ∧ Memory.wf State.reset.outBuf = true := ⟨rfl, rfl⟩

end Sys2Proof.Machine
end

