-- ==== Sys2Proof/Laws/State.lean ====
section
/-! SUPPORT. What each named update of State does to each field: one lemma per field per update, so that no
proof unfolds a record update. -/

namespace Sys2Proof.Machine

variable (s : State)

/-! ## afterDraw -/

@[simp] theorem State.afterDraw_params : (s.afterDraw).params = s.params := rfl
@[simp] theorem State.afterDraw_phase : (s.afterDraw).phase = s.phase := rfl
@[simp] theorem State.afterDraw_status : (s.afterDraw).status = s.status := rfl
@[simp] theorem State.afterDraw_error : (s.afterDraw).error = s.error := rfl
@[simp] theorem State.afterDraw_errInfo : (s.afterDraw).errInfo = s.errInfo := rfl
@[simp] theorem State.afterDraw_inLen : (s.afterDraw).inLen = s.inLen := rfl
@[simp] theorem State.afterDraw_outLen : (s.afterDraw).outLen = s.outLen := rfl
@[simp] theorem State.afterDraw_padLen : (s.afterDraw).padLen = s.padLen := rfl
@[simp] theorem State.afterDraw_hdrLen : (s.afterDraw).hdrLen = s.hdrLen := rfl
@[simp] theorem State.afterDraw_symCount : (s.afterDraw).symCount = s.symCount := rfl
@[simp] theorem State.afterDraw_nodeCount : (s.afterDraw).nodeCount = s.nodeCount := rfl
@[simp] theorem State.afterDraw_root : (s.afterDraw).root = s.root := rfl
@[simp] theorem State.afterDraw_bitCount : (s.afterDraw).bitCount = s.bitCount := rfl
@[simp] theorem State.afterDraw_freq : (s.afterDraw).freq = s.freq := rfl
@[simp] theorem State.afterDraw_code : (s.afterDraw).code = s.code := rfl
@[simp] theorem State.afterDraw_node : (s.afterDraw).node = s.node := rfl
@[simp] theorem State.afterDraw_inBuf : (s.afterDraw).inBuf = s.inBuf := rfl
@[simp] theorem State.afterDraw_outBuf : (s.afterDraw).outBuf = s.outBuf := rfl
@[simp] theorem State.afterDraw_hostFault : (s.afterDraw).hostFault = s.hostFault := rfl
@[simp] theorem State.afterDraw_response : (s.afterDraw).response = s.response := rfl
@[simp] theorem State.afterDraw_pending : (s.afterDraw).pending = s.pending := rfl
@[simp] theorem State.afterDraw_engineWait : (s.afterDraw).engineWait = s.engineWait := rfl
@[simp] theorem State.afterDraw_draws : (s.afterDraw).draws = s.draws + 4 := rfl
@[simp] theorem State.afterDraw_epoch : (s.afterDraw).epoch = s.epoch := rfl

/-! ## answerRead -/

@[simp] theorem State.answerRead_params (data : Word) : (s.answerRead data).params = s.params := rfl
@[simp] theorem State.answerRead_phase (data : Word) : (s.answerRead data).phase = s.phase := rfl
@[simp] theorem State.answerRead_status (data : Word) : (s.answerRead data).status = s.status := rfl
@[simp] theorem State.answerRead_error (data : Word) : (s.answerRead data).error = s.error := rfl
@[simp] theorem State.answerRead_errInfo (data : Word) : (s.answerRead data).errInfo = s.errInfo := rfl
@[simp] theorem State.answerRead_inLen (data : Word) : (s.answerRead data).inLen = s.inLen := rfl
@[simp] theorem State.answerRead_outLen (data : Word) : (s.answerRead data).outLen = s.outLen := rfl
@[simp] theorem State.answerRead_padLen (data : Word) : (s.answerRead data).padLen = s.padLen := rfl
@[simp] theorem State.answerRead_hdrLen (data : Word) : (s.answerRead data).hdrLen = s.hdrLen := rfl
@[simp] theorem State.answerRead_symCount (data : Word) : (s.answerRead data).symCount = s.symCount := rfl
@[simp] theorem State.answerRead_nodeCount (data : Word) :
    (s.answerRead data).nodeCount = s.nodeCount := rfl
@[simp] theorem State.answerRead_root (data : Word) : (s.answerRead data).root = s.root := rfl
@[simp] theorem State.answerRead_bitCount (data : Word) : (s.answerRead data).bitCount = s.bitCount := rfl
@[simp] theorem State.answerRead_freq (data : Word) : (s.answerRead data).freq = s.freq := rfl
@[simp] theorem State.answerRead_code (data : Word) : (s.answerRead data).code = s.code := rfl
@[simp] theorem State.answerRead_node (data : Word) : (s.answerRead data).node = s.node := rfl
@[simp] theorem State.answerRead_inBuf (data : Word) : (s.answerRead data).inBuf = s.inBuf := rfl
@[simp] theorem State.answerRead_outBuf (data : Word) : (s.answerRead data).outBuf = s.outBuf := rfl
@[simp] theorem State.answerRead_hostFault (data : Word) :
    (s.answerRead data).hostFault = s.hostFault := rfl
@[simp] theorem State.answerRead_response (data : Word) :
    (s.answerRead data).response = some ⟨.okay, some data⟩ := rfl
@[simp] theorem State.answerRead_pending (data : Word) : (s.answerRead data).pending = s.pending := rfl
@[simp] theorem State.answerRead_engineWait (data : Word) :
    (s.answerRead data).engineWait = s.engineWait := rfl
@[simp] theorem State.answerRead_draws (data : Word) : (s.answerRead data).draws = s.draws := rfl
@[simp] theorem State.answerRead_epoch (data : Word) : (s.answerRead data).epoch = s.epoch := rfl

/-! ## answerDraw -/

@[simp] theorem State.answerDraw_params : (s.answerDraw).params = s.params := rfl
@[simp] theorem State.answerDraw_phase : (s.answerDraw).phase = s.phase := rfl
@[simp] theorem State.answerDraw_status : (s.answerDraw).status = s.status := rfl
@[simp] theorem State.answerDraw_error : (s.answerDraw).error = s.error := rfl
@[simp] theorem State.answerDraw_errInfo : (s.answerDraw).errInfo = s.errInfo := rfl
@[simp] theorem State.answerDraw_inLen : (s.answerDraw).inLen = s.inLen := rfl
@[simp] theorem State.answerDraw_outLen : (s.answerDraw).outLen = s.outLen := rfl
@[simp] theorem State.answerDraw_padLen : (s.answerDraw).padLen = s.padLen := rfl
@[simp] theorem State.answerDraw_hdrLen : (s.answerDraw).hdrLen = s.hdrLen := rfl
@[simp] theorem State.answerDraw_symCount : (s.answerDraw).symCount = s.symCount := rfl
@[simp] theorem State.answerDraw_nodeCount : (s.answerDraw).nodeCount = s.nodeCount := rfl
@[simp] theorem State.answerDraw_root : (s.answerDraw).root = s.root := rfl
@[simp] theorem State.answerDraw_bitCount : (s.answerDraw).bitCount = s.bitCount := rfl
@[simp] theorem State.answerDraw_freq : (s.answerDraw).freq = s.freq := rfl
@[simp] theorem State.answerDraw_code : (s.answerDraw).code = s.code := rfl
@[simp] theorem State.answerDraw_node : (s.answerDraw).node = s.node := rfl
@[simp] theorem State.answerDraw_inBuf : (s.answerDraw).inBuf = s.inBuf := rfl
@[simp] theorem State.answerDraw_outBuf : (s.answerDraw).outBuf = s.outBuf := rfl
@[simp] theorem State.answerDraw_hostFault : (s.answerDraw).hostFault = s.hostFault := rfl
@[simp] theorem State.answerDraw_response : (s.answerDraw).response = some ⟨.okay, some s.drawWord⟩ := rfl
@[simp] theorem State.answerDraw_pending : (s.answerDraw).pending = s.pending := rfl
@[simp] theorem State.answerDraw_engineWait : (s.answerDraw).engineWait = s.engineWait := rfl
@[simp] theorem State.answerDraw_draws : (s.answerDraw).draws = s.draws + 4 := rfl
@[simp] theorem State.answerDraw_epoch : (s.answerDraw).epoch = s.epoch := rfl

/-! ## answerWrite -/

@[simp] theorem State.answerWrite_params : (s.answerWrite).params = s.params := rfl
@[simp] theorem State.answerWrite_phase : (s.answerWrite).phase = s.phase := rfl
@[simp] theorem State.answerWrite_status : (s.answerWrite).status = s.status := rfl
@[simp] theorem State.answerWrite_error : (s.answerWrite).error = s.error := rfl
@[simp] theorem State.answerWrite_errInfo : (s.answerWrite).errInfo = s.errInfo := rfl
@[simp] theorem State.answerWrite_inLen : (s.answerWrite).inLen = s.inLen := rfl
@[simp] theorem State.answerWrite_outLen : (s.answerWrite).outLen = s.outLen := rfl
@[simp] theorem State.answerWrite_padLen : (s.answerWrite).padLen = s.padLen := rfl
@[simp] theorem State.answerWrite_hdrLen : (s.answerWrite).hdrLen = s.hdrLen := rfl
@[simp] theorem State.answerWrite_symCount : (s.answerWrite).symCount = s.symCount := rfl
@[simp] theorem State.answerWrite_nodeCount : (s.answerWrite).nodeCount = s.nodeCount := rfl
@[simp] theorem State.answerWrite_root : (s.answerWrite).root = s.root := rfl
@[simp] theorem State.answerWrite_bitCount : (s.answerWrite).bitCount = s.bitCount := rfl
@[simp] theorem State.answerWrite_freq : (s.answerWrite).freq = s.freq := rfl
@[simp] theorem State.answerWrite_code : (s.answerWrite).code = s.code := rfl
@[simp] theorem State.answerWrite_node : (s.answerWrite).node = s.node := rfl
@[simp] theorem State.answerWrite_inBuf : (s.answerWrite).inBuf = s.inBuf := rfl
@[simp] theorem State.answerWrite_outBuf : (s.answerWrite).outBuf = s.outBuf := rfl
@[simp] theorem State.answerWrite_hostFault : (s.answerWrite).hostFault = s.hostFault := rfl
@[simp] theorem State.answerWrite_response : (s.answerWrite).response = some ⟨.okay, none⟩ := rfl
@[simp] theorem State.answerWrite_pending : (s.answerWrite).pending = s.pending := rfl
@[simp] theorem State.answerWrite_engineWait : (s.answerWrite).engineWait = s.engineWait := rfl
@[simp] theorem State.answerWrite_draws : (s.answerWrite).draws = s.draws := rfl
@[simp] theorem State.answerWrite_epoch : (s.answerWrite).epoch = s.epoch := rfl

/-! ## refuseRead -/

@[simp] theorem State.refuseRead_params : (s.refuseRead).params = s.params := rfl
@[simp] theorem State.refuseRead_phase : (s.refuseRead).phase = s.phase := rfl
@[simp] theorem State.refuseRead_status : (s.refuseRead).status = s.status := rfl
@[simp] theorem State.refuseRead_error : (s.refuseRead).error = s.error := rfl
@[simp] theorem State.refuseRead_errInfo : (s.refuseRead).errInfo = s.errInfo := rfl
@[simp] theorem State.refuseRead_inLen : (s.refuseRead).inLen = s.inLen := rfl
@[simp] theorem State.refuseRead_outLen : (s.refuseRead).outLen = s.outLen := rfl
@[simp] theorem State.refuseRead_padLen : (s.refuseRead).padLen = s.padLen := rfl
@[simp] theorem State.refuseRead_hdrLen : (s.refuseRead).hdrLen = s.hdrLen := rfl
@[simp] theorem State.refuseRead_symCount : (s.refuseRead).symCount = s.symCount := rfl
@[simp] theorem State.refuseRead_nodeCount : (s.refuseRead).nodeCount = s.nodeCount := rfl
@[simp] theorem State.refuseRead_root : (s.refuseRead).root = s.root := rfl
@[simp] theorem State.refuseRead_bitCount : (s.refuseRead).bitCount = s.bitCount := rfl
@[simp] theorem State.refuseRead_freq : (s.refuseRead).freq = s.freq := rfl
@[simp] theorem State.refuseRead_code : (s.refuseRead).code = s.code := rfl
@[simp] theorem State.refuseRead_node : (s.refuseRead).node = s.node := rfl
@[simp] theorem State.refuseRead_inBuf : (s.refuseRead).inBuf = s.inBuf := rfl
@[simp] theorem State.refuseRead_outBuf : (s.refuseRead).outBuf = s.outBuf := rfl
@[simp] theorem State.refuseRead_hostFault : (s.refuseRead).hostFault = true := rfl
@[simp] theorem State.refuseRead_response : (s.refuseRead).response = some ⟨.slverr, some s.drawWord⟩ := rfl
@[simp] theorem State.refuseRead_pending : (s.refuseRead).pending = s.pending := rfl
@[simp] theorem State.refuseRead_engineWait : (s.refuseRead).engineWait = s.engineWait := rfl
@[simp] theorem State.refuseRead_draws : (s.refuseRead).draws = s.draws + 4 := rfl
@[simp] theorem State.refuseRead_epoch : (s.refuseRead).epoch = s.epoch := rfl

/-! ## refuseWrite -/

@[simp] theorem State.refuseWrite_params : (s.refuseWrite).params = s.params := rfl
@[simp] theorem State.refuseWrite_phase : (s.refuseWrite).phase = s.phase := rfl
@[simp] theorem State.refuseWrite_status : (s.refuseWrite).status = s.status := rfl
@[simp] theorem State.refuseWrite_error : (s.refuseWrite).error = s.error := rfl
@[simp] theorem State.refuseWrite_errInfo : (s.refuseWrite).errInfo = s.errInfo := rfl
@[simp] theorem State.refuseWrite_inLen : (s.refuseWrite).inLen = s.inLen := rfl
@[simp] theorem State.refuseWrite_outLen : (s.refuseWrite).outLen = s.outLen := rfl
@[simp] theorem State.refuseWrite_padLen : (s.refuseWrite).padLen = s.padLen := rfl
@[simp] theorem State.refuseWrite_hdrLen : (s.refuseWrite).hdrLen = s.hdrLen := rfl
@[simp] theorem State.refuseWrite_symCount : (s.refuseWrite).symCount = s.symCount := rfl
@[simp] theorem State.refuseWrite_nodeCount : (s.refuseWrite).nodeCount = s.nodeCount := rfl
@[simp] theorem State.refuseWrite_root : (s.refuseWrite).root = s.root := rfl
@[simp] theorem State.refuseWrite_bitCount : (s.refuseWrite).bitCount = s.bitCount := rfl
@[simp] theorem State.refuseWrite_freq : (s.refuseWrite).freq = s.freq := rfl
@[simp] theorem State.refuseWrite_code : (s.refuseWrite).code = s.code := rfl
@[simp] theorem State.refuseWrite_node : (s.refuseWrite).node = s.node := rfl
@[simp] theorem State.refuseWrite_inBuf : (s.refuseWrite).inBuf = s.inBuf := rfl
@[simp] theorem State.refuseWrite_outBuf : (s.refuseWrite).outBuf = s.outBuf := rfl
@[simp] theorem State.refuseWrite_hostFault : (s.refuseWrite).hostFault = true := rfl
@[simp] theorem State.refuseWrite_response : (s.refuseWrite).response = some ⟨.slverr, none⟩ := rfl
@[simp] theorem State.refuseWrite_pending : (s.refuseWrite).pending = s.pending := rfl
@[simp] theorem State.refuseWrite_engineWait : (s.refuseWrite).engineWait = s.engineWait := rfl
@[simp] theorem State.refuseWrite_draws : (s.refuseWrite).draws = s.draws := rfl
@[simp] theorem State.refuseWrite_epoch : (s.refuseWrite).epoch = s.epoch := rfl

/-! ## storeIn -/

@[simp] theorem State.storeIn_params (k : Nat) (data : Word) : (s.storeIn k data).params = s.params := rfl
@[simp] theorem State.storeIn_phase (k : Nat) (data : Word) : (s.storeIn k data).phase = s.phase := rfl
@[simp] theorem State.storeIn_status (k : Nat) (data : Word) : (s.storeIn k data).status = s.status := rfl
@[simp] theorem State.storeIn_error (k : Nat) (data : Word) : (s.storeIn k data).error = s.error := rfl
@[simp] theorem State.storeIn_errInfo (k : Nat) (data : Word) :
    (s.storeIn k data).errInfo = s.errInfo := rfl
@[simp] theorem State.storeIn_inLen (k : Nat) (data : Word) : (s.storeIn k data).inLen = s.inLen := rfl
@[simp] theorem State.storeIn_outLen (k : Nat) (data : Word) : (s.storeIn k data).outLen = s.outLen := rfl
@[simp] theorem State.storeIn_padLen (k : Nat) (data : Word) : (s.storeIn k data).padLen = s.padLen := rfl
@[simp] theorem State.storeIn_hdrLen (k : Nat) (data : Word) : (s.storeIn k data).hdrLen = s.hdrLen := rfl
@[simp] theorem State.storeIn_symCount (k : Nat) (data : Word) :
    (s.storeIn k data).symCount = s.symCount := rfl
@[simp] theorem State.storeIn_nodeCount (k : Nat) (data : Word) :
    (s.storeIn k data).nodeCount = s.nodeCount := rfl
@[simp] theorem State.storeIn_root (k : Nat) (data : Word) : (s.storeIn k data).root = s.root := rfl
@[simp] theorem State.storeIn_bitCount (k : Nat) (data : Word) :
    (s.storeIn k data).bitCount = s.bitCount := rfl
@[simp] theorem State.storeIn_freq (k : Nat) (data : Word) : (s.storeIn k data).freq = s.freq := rfl
@[simp] theorem State.storeIn_code (k : Nat) (data : Word) : (s.storeIn k data).code = s.code := rfl
@[simp] theorem State.storeIn_node (k : Nat) (data : Word) : (s.storeIn k data).node = s.node := rfl
@[simp] theorem State.storeIn_inBuf (k : Nat) (data : Word) :
    (s.storeIn k data).inBuf = Memory.writeBytes s.inBuf k [lane data 0, lane data 1, lane data 2, lane data 3] := rfl
@[simp] theorem State.storeIn_outBuf (k : Nat) (data : Word) : (s.storeIn k data).outBuf = s.outBuf := rfl
@[simp] theorem State.storeIn_hostFault (k : Nat) (data : Word) :
    (s.storeIn k data).hostFault = s.hostFault := rfl
@[simp] theorem State.storeIn_response (k : Nat) (data : Word) :
    (s.storeIn k data).response = s.response := rfl
@[simp] theorem State.storeIn_pending (k : Nat) (data : Word) :
    (s.storeIn k data).pending = s.pending := rfl
@[simp] theorem State.storeIn_engineWait (k : Nat) (data : Word) :
    (s.storeIn k data).engineWait = s.engineWait := rfl
@[simp] theorem State.storeIn_draws (k : Nat) (data : Word) : (s.storeIn k data).draws = s.draws := rfl
@[simp] theorem State.storeIn_epoch (k : Nat) (data : Word) : (s.storeIn k data).epoch = s.epoch := rfl

/-! ## accept -/

@[simp] theorem State.accept_params (w : Word) : (s.accept w).params = s.params := rfl
@[simp] theorem State.accept_phase (w : Word) : (s.accept w).phase = .busy w := rfl
@[simp] theorem State.accept_status (w : Word) : (s.accept w).status = acceptStatus w := rfl
@[simp] theorem State.accept_error (w : Word) : (s.accept w).error = s.error := rfl
@[simp] theorem State.accept_errInfo (w : Word) : (s.accept w).errInfo = s.errInfo := rfl
@[simp] theorem State.accept_inLen (w : Word) : (s.accept w).inLen = s.inLen := rfl
@[simp] theorem State.accept_outLen (w : Word) : (s.accept w).outLen = s.outLen := rfl
@[simp] theorem State.accept_padLen (w : Word) : (s.accept w).padLen = s.padLen := rfl
@[simp] theorem State.accept_hdrLen (w : Word) : (s.accept w).hdrLen = s.hdrLen := rfl
@[simp] theorem State.accept_symCount (w : Word) : (s.accept w).symCount = s.symCount := rfl
@[simp] theorem State.accept_nodeCount (w : Word) : (s.accept w).nodeCount = s.nodeCount := rfl
@[simp] theorem State.accept_root (w : Word) : (s.accept w).root = s.root := rfl
@[simp] theorem State.accept_bitCount (w : Word) : (s.accept w).bitCount = s.bitCount := rfl
@[simp] theorem State.accept_freq (w : Word) : (s.accept w).freq = s.freq := rfl
@[simp] theorem State.accept_code (w : Word) : (s.accept w).code = s.code := rfl
@[simp] theorem State.accept_node (w : Word) : (s.accept w).node = s.node := rfl
@[simp] theorem State.accept_inBuf (w : Word) : (s.accept w).inBuf = s.inBuf := rfl
@[simp] theorem State.accept_outBuf (w : Word) : (s.accept w).outBuf = s.outBuf := rfl
@[simp] theorem State.accept_hostFault (w : Word) : (s.accept w).hostFault = s.hostFault := rfl
@[simp] theorem State.accept_response (w : Word) : (s.accept w).response = s.response := rfl
@[simp] theorem State.accept_pending (w : Word) : (s.accept w).pending = s.pending := rfl
@[simp] theorem State.accept_engineWait (w : Word) :
    (s.accept w).engineWait = Config.engineDelay s.draws := rfl
@[simp] theorem State.accept_draws (w : Word) : (s.accept w).draws = s.draws + 1 := rfl
@[simp] theorem State.accept_epoch (w : Word) : (s.accept w).epoch = s.epoch := rfl

/-! ## clearResults -/

@[simp] theorem State.clearResults_params : (s.clearResults).params = s.params := rfl
@[simp] theorem State.clearResults_phase : (s.clearResults).phase = s.phase := rfl
@[simp] theorem State.clearResults_status : (s.clearResults).status = s.status := rfl
@[simp] theorem State.clearResults_error : (s.clearResults).error = s.error := rfl
@[simp] theorem State.clearResults_errInfo : (s.clearResults).errInfo = s.errInfo := rfl
@[simp] theorem State.clearResults_inLen : (s.clearResults).inLen = s.inLen := rfl
@[simp] theorem State.clearResults_outLen : (s.clearResults).outLen = 0 := rfl
@[simp] theorem State.clearResults_padLen : (s.clearResults).padLen = 0 := rfl
@[simp] theorem State.clearResults_hdrLen : (s.clearResults).hdrLen = 0 := rfl
@[simp] theorem State.clearResults_symCount : (s.clearResults).symCount = 0 := rfl
@[simp] theorem State.clearResults_nodeCount : (s.clearResults).nodeCount = 0 := rfl
@[simp] theorem State.clearResults_root : (s.clearResults).root = 0 := rfl
@[simp] theorem State.clearResults_bitCount : (s.clearResults).bitCount = 0 := rfl
@[simp] theorem State.clearResults_freq : (s.clearResults).freq = s.freq := rfl
@[simp] theorem State.clearResults_code : (s.clearResults).code = s.code := rfl
@[simp] theorem State.clearResults_node : (s.clearResults).node = s.node := rfl
@[simp] theorem State.clearResults_inBuf : (s.clearResults).inBuf = s.inBuf := rfl
@[simp] theorem State.clearResults_outBuf : (s.clearResults).outBuf = s.outBuf := rfl
@[simp] theorem State.clearResults_hostFault : (s.clearResults).hostFault = s.hostFault := rfl
@[simp] theorem State.clearResults_response : (s.clearResults).response = s.response := rfl
@[simp] theorem State.clearResults_pending : (s.clearResults).pending = s.pending := rfl
@[simp] theorem State.clearResults_engineWait : (s.clearResults).engineWait = s.engineWait := rfl
@[simp] theorem State.clearResults_draws : (s.clearResults).draws = s.draws := rfl
@[simp] theorem State.clearResults_epoch : (s.clearResults).epoch = s.epoch := rfl

/-! ## succeed -/

@[simp] theorem State.succeed_params : (s.succeed).params = s.params := rfl
@[simp] theorem State.succeed_phase : (s.succeed).phase = .idle := rfl
@[simp] theorem State.succeed_status : (s.succeed).status = successStatus s.status := rfl
@[simp] theorem State.succeed_error : (s.succeed).error = 0 := rfl
@[simp] theorem State.succeed_errInfo : (s.succeed).errInfo = 0 := rfl
@[simp] theorem State.succeed_inLen : (s.succeed).inLen = s.inLen := rfl
@[simp] theorem State.succeed_outLen : (s.succeed).outLen = s.outLen := rfl
@[simp] theorem State.succeed_padLen : (s.succeed).padLen = s.padLen := rfl
@[simp] theorem State.succeed_hdrLen : (s.succeed).hdrLen = s.hdrLen := rfl
@[simp] theorem State.succeed_symCount : (s.succeed).symCount = s.symCount := rfl
@[simp] theorem State.succeed_nodeCount : (s.succeed).nodeCount = s.nodeCount := rfl
@[simp] theorem State.succeed_root : (s.succeed).root = s.root := rfl
@[simp] theorem State.succeed_bitCount : (s.succeed).bitCount = s.bitCount := rfl
@[simp] theorem State.succeed_freq : (s.succeed).freq = s.freq := rfl
@[simp] theorem State.succeed_code : (s.succeed).code = s.code := rfl
@[simp] theorem State.succeed_node : (s.succeed).node = s.node := rfl
@[simp] theorem State.succeed_inBuf : (s.succeed).inBuf = s.inBuf := rfl
@[simp] theorem State.succeed_outBuf : (s.succeed).outBuf = s.outBuf := rfl
@[simp] theorem State.succeed_hostFault : (s.succeed).hostFault = s.hostFault := rfl
@[simp] theorem State.succeed_response : (s.succeed).response = s.response := rfl
@[simp] theorem State.succeed_pending : (s.succeed).pending = s.pending := rfl
@[simp] theorem State.succeed_engineWait : (s.succeed).engineWait = s.engineWait := rfl
@[simp] theorem State.succeed_draws : (s.succeed).draws = s.draws := rfl
@[simp] theorem State.succeed_epoch : (s.succeed).epoch = s.epoch := rfl

/-! ## fail -/

@[simp] theorem State.fail_params (e : CmdError) : (s.fail e).params = s.params := rfl
@[simp] theorem State.fail_phase (e : CmdError) : (s.fail e).phase = .idle := rfl
@[simp] theorem State.fail_status (e : CmdError) : (s.fail e).status = errorStatus s.status := rfl
@[simp] theorem State.fail_error (e : CmdError) : (s.fail e).error = e.kind.code.setWidth 32 := rfl
@[simp] theorem State.fail_errInfo (e : CmdError) : (s.fail e).errInfo = e.info := rfl
@[simp] theorem State.fail_inLen (e : CmdError) : (s.fail e).inLen = s.inLen := rfl
@[simp] theorem State.fail_outLen (e : CmdError) : (s.fail e).outLen = 0 := rfl
@[simp] theorem State.fail_padLen (e : CmdError) : (s.fail e).padLen = 0 := rfl
@[simp] theorem State.fail_hdrLen (e : CmdError) : (s.fail e).hdrLen = 0 := rfl
@[simp] theorem State.fail_symCount (e : CmdError) : (s.fail e).symCount = 0 := rfl
@[simp] theorem State.fail_nodeCount (e : CmdError) : (s.fail e).nodeCount = 0 := rfl
@[simp] theorem State.fail_root (e : CmdError) : (s.fail e).root = 0 := rfl
@[simp] theorem State.fail_bitCount (e : CmdError) : (s.fail e).bitCount = 0 := rfl
@[simp] theorem State.fail_freq (e : CmdError) : (s.fail e).freq = Config.freeFreq s.draws := rfl
@[simp] theorem State.fail_code (e : CmdError) : (s.fail e).code = Config.freeCode s.draws := rfl
@[simp] theorem State.fail_node (e : CmdError) : (s.fail e).node = Config.freeNode s.draws := rfl
@[simp] theorem State.fail_inBuf (e : CmdError) : (s.fail e).inBuf = s.inBuf := rfl
@[simp] theorem State.fail_outBuf (e : CmdError) : (s.fail e).outBuf = [] := rfl
@[simp] theorem State.fail_hostFault (e : CmdError) : (s.fail e).hostFault = s.hostFault := rfl
@[simp] theorem State.fail_response (e : CmdError) : (s.fail e).response = s.response := rfl
@[simp] theorem State.fail_pending (e : CmdError) : (s.fail e).pending = s.pending := rfl
@[simp] theorem State.fail_engineWait (e : CmdError) : (s.fail e).engineWait = s.engineWait := rfl
@[simp] theorem State.fail_draws (e : CmdError) : (s.fail e).draws = s.draws + 1 := rfl
@[simp] theorem State.fail_epoch (e : CmdError) : (s.fail e).epoch = s.epoch := rfl

/-! ## storeEncoding -/

@[simp] theorem State.storeEncoding_params (e : Encoding) : (s.storeEncoding e).params = s.params := rfl
@[simp] theorem State.storeEncoding_phase (e : Encoding) : (s.storeEncoding e).phase = s.phase := rfl
@[simp] theorem State.storeEncoding_status (e : Encoding) :
    (s.storeEncoding e).status = validStatus s.status true true true true := rfl
@[simp] theorem State.storeEncoding_error (e : Encoding) : (s.storeEncoding e).error = s.error := rfl
@[simp] theorem State.storeEncoding_errInfo (e : Encoding) : (s.storeEncoding e).errInfo = s.errInfo := rfl
@[simp] theorem State.storeEncoding_inLen (e : Encoding) : (s.storeEncoding e).inLen = s.inLen := rfl
@[simp] theorem State.storeEncoding_outLen (e : Encoding) :
    (s.storeEncoding e).outLen = BitVec.ofNat 32 e.artifact.length := rfl
@[simp] theorem State.storeEncoding_padLen (e : Encoding) :
    (s.storeEncoding e).padLen = BitVec.ofNat 32 e.pad := rfl
@[simp] theorem State.storeEncoding_hdrLen (e : Encoding) :
    (s.storeEncoding e).hdrLen = BitVec.ofNat 32 e.header.length := rfl
@[simp] theorem State.storeEncoding_symCount (e : Encoding) :
    (s.storeEncoding e).symCount = BitVec.ofNat 32 (distinctCount e.freq) := rfl
@[simp] theorem State.storeEncoding_nodeCount (e : Encoding) :
    (s.storeEncoding e).nodeCount = BitVec.ofNat 32 e.tree.arena.length := rfl
@[simp] theorem State.storeEncoding_root (e : Encoding) :
    (s.storeEncoding e).root = BitVec.ofNat 32 e.tree.root := rfl
@[simp] theorem State.storeEncoding_bitCount (e : Encoding) :
    (s.storeEncoding e).bitCount = BitVec.ofNat 32 e.bits.length := rfl
@[simp] theorem State.storeEncoding_freq (e : Encoding) : (s.storeEncoding e).freq = e.freq := rfl
@[simp] theorem State.storeEncoding_code (e : Encoding) :
    (s.storeEncoding e).code = codeTable e.codes := rfl
@[simp] theorem State.storeEncoding_node (e : Encoding) : (s.storeEncoding e).node = nodeTable e.tree := rfl
@[simp] theorem State.storeEncoding_inBuf (e : Encoding) : (s.storeEncoding e).inBuf = s.inBuf := rfl
@[simp] theorem State.storeEncoding_outBuf (e : Encoding) :
    (s.storeEncoding e).outBuf = Memory.writeBytes s.outBuf 0 e.artifact := rfl
@[simp] theorem State.storeEncoding_hostFault (e : Encoding) :
    (s.storeEncoding e).hostFault = s.hostFault := rfl
@[simp] theorem State.storeEncoding_response (e : Encoding) :
    (s.storeEncoding e).response = s.response := rfl
@[simp] theorem State.storeEncoding_pending (e : Encoding) : (s.storeEncoding e).pending = s.pending := rfl
@[simp] theorem State.storeEncoding_engineWait (e : Encoding) :
    (s.storeEncoding e).engineWait = s.engineWait := rfl
@[simp] theorem State.storeEncoding_draws (e : Encoding) : (s.storeEncoding e).draws = s.draws := rfl
@[simp] theorem State.storeEncoding_epoch (e : Encoding) : (s.storeEncoding e).epoch = s.epoch := rfl

/-! ## storeDecoding -/

@[simp] theorem State.storeDecoding_params (d : Decoding) : (s.storeDecoding d).params = s.params := rfl
@[simp] theorem State.storeDecoding_phase (d : Decoding) : (s.storeDecoding d).phase = s.phase := rfl
@[simp] theorem State.storeDecoding_status (d : Decoding) :
    (s.storeDecoding d).status = validStatus s.status true false false true := rfl
@[simp] theorem State.storeDecoding_error (d : Decoding) : (s.storeDecoding d).error = s.error := rfl
@[simp] theorem State.storeDecoding_errInfo (d : Decoding) : (s.storeDecoding d).errInfo = s.errInfo := rfl
@[simp] theorem State.storeDecoding_inLen (d : Decoding) : (s.storeDecoding d).inLen = s.inLen := rfl
@[simp] theorem State.storeDecoding_outLen (d : Decoding) :
    (s.storeDecoding d).outLen = BitVec.ofNat 32 d.text.length := rfl
@[simp] theorem State.storeDecoding_padLen (d : Decoding) :
    (s.storeDecoding d).padLen = BitVec.ofNat 32 d.header.pad := rfl
@[simp] theorem State.storeDecoding_hdrLen (d : Decoding) :
    (s.storeDecoding d).hdrLen = BitVec.ofNat 32 d.header.length := rfl
@[simp] theorem State.storeDecoding_symCount (d : Decoding) :
    (s.storeDecoding d).symCount = BitVec.ofNat 32 d.header.table.length := rfl
@[simp] theorem State.storeDecoding_nodeCount (d : Decoding) : (s.storeDecoding d).nodeCount = 0 := rfl
@[simp] theorem State.storeDecoding_root (d : Decoding) : (s.storeDecoding d).root = 0 := rfl
@[simp] theorem State.storeDecoding_bitCount (d : Decoding) :
    (s.storeDecoding d).bitCount = BitVec.ofNat 32 d.bits.length := rfl
@[simp] theorem State.storeDecoding_freq (d : Decoding) : (s.storeDecoding d).freq = s.freq := rfl
@[simp] theorem State.storeDecoding_code (d : Decoding) :
    (s.storeDecoding d).code = codeTable d.header.table := rfl
@[simp] theorem State.storeDecoding_node (d : Decoding) : (s.storeDecoding d).node = s.node := rfl
@[simp] theorem State.storeDecoding_inBuf (d : Decoding) : (s.storeDecoding d).inBuf = s.inBuf := rfl
@[simp] theorem State.storeDecoding_outBuf (d : Decoding) :
    (s.storeDecoding d).outBuf = Memory.writeBytes s.outBuf 0 d.text := rfl
@[simp] theorem State.storeDecoding_hostFault (d : Decoding) :
    (s.storeDecoding d).hostFault = s.hostFault := rfl
@[simp] theorem State.storeDecoding_response (d : Decoding) :
    (s.storeDecoding d).response = s.response := rfl
@[simp] theorem State.storeDecoding_pending (d : Decoding) : (s.storeDecoding d).pending = s.pending := rfl
@[simp] theorem State.storeDecoding_engineWait (d : Decoding) :
    (s.storeDecoding d).engineWait = s.engineWait := rfl
@[simp] theorem State.storeDecoding_draws (d : Decoding) : (s.storeDecoding d).draws = s.draws := rfl
@[simp] theorem State.storeDecoding_epoch (d : Decoding) : (s.storeDecoding d).epoch = s.epoch := rfl

/-! ## clearValid -/

@[simp] theorem State.clearValid_params : (s.clearValid).params = s.params := rfl
@[simp] theorem State.clearValid_phase : (s.clearValid).phase = s.phase := rfl
@[simp] theorem State.clearValid_status :
    (s.clearValid).status = validStatus s.status false false false false := rfl
@[simp] theorem State.clearValid_error : (s.clearValid).error = s.error := rfl
@[simp] theorem State.clearValid_errInfo : (s.clearValid).errInfo = s.errInfo := rfl
@[simp] theorem State.clearValid_inLen : (s.clearValid).inLen = s.inLen := rfl
@[simp] theorem State.clearValid_outLen : (s.clearValid).outLen = s.outLen := rfl
@[simp] theorem State.clearValid_padLen : (s.clearValid).padLen = s.padLen := rfl
@[simp] theorem State.clearValid_hdrLen : (s.clearValid).hdrLen = s.hdrLen := rfl
@[simp] theorem State.clearValid_symCount : (s.clearValid).symCount = s.symCount := rfl
@[simp] theorem State.clearValid_nodeCount : (s.clearValid).nodeCount = s.nodeCount := rfl
@[simp] theorem State.clearValid_root : (s.clearValid).root = s.root := rfl
@[simp] theorem State.clearValid_bitCount : (s.clearValid).bitCount = s.bitCount := rfl
@[simp] theorem State.clearValid_freq : (s.clearValid).freq = s.freq := rfl
@[simp] theorem State.clearValid_code : (s.clearValid).code = s.code := rfl
@[simp] theorem State.clearValid_node : (s.clearValid).node = s.node := rfl
@[simp] theorem State.clearValid_inBuf : (s.clearValid).inBuf = s.inBuf := rfl
@[simp] theorem State.clearValid_outBuf : (s.clearValid).outBuf = s.outBuf := rfl
@[simp] theorem State.clearValid_hostFault : (s.clearValid).hostFault = s.hostFault := rfl
@[simp] theorem State.clearValid_response : (s.clearValid).response = s.response := rfl
@[simp] theorem State.clearValid_pending : (s.clearValid).pending = s.pending := rfl
@[simp] theorem State.clearValid_engineWait : (s.clearValid).engineWait = s.engineWait := rfl
@[simp] theorem State.clearValid_draws : (s.clearValid).draws = s.draws := rfl
@[simp] theorem State.clearValid_epoch : (s.clearValid).epoch = s.epoch := rfl

/-! ## applyReset -/

@[simp] theorem State.applyReset_params : (s.applyReset).params = s.params := rfl
@[simp] theorem State.applyReset_phase : (s.applyReset).phase = .idle := rfl
@[simp] theorem State.applyReset_status : (s.applyReset).status = 0 := rfl
@[simp] theorem State.applyReset_error : (s.applyReset).error = 0 := rfl
@[simp] theorem State.applyReset_errInfo : (s.applyReset).errInfo = 0 := rfl
@[simp] theorem State.applyReset_inLen : (s.applyReset).inLen = 0 := rfl
@[simp] theorem State.applyReset_outLen : (s.applyReset).outLen = 0 := rfl
@[simp] theorem State.applyReset_padLen : (s.applyReset).padLen = 0 := rfl
@[simp] theorem State.applyReset_hdrLen : (s.applyReset).hdrLen = 0 := rfl
@[simp] theorem State.applyReset_symCount : (s.applyReset).symCount = 0 := rfl
@[simp] theorem State.applyReset_nodeCount : (s.applyReset).nodeCount = 0 := rfl
@[simp] theorem State.applyReset_root : (s.applyReset).root = 0 := rfl
@[simp] theorem State.applyReset_bitCount : (s.applyReset).bitCount = 0 := rfl
@[simp] theorem State.applyReset_freq : (s.applyReset).freq = Config.freeFreq s.draws := rfl
@[simp] theorem State.applyReset_code : (s.applyReset).code = Config.freeCode s.draws := rfl
@[simp] theorem State.applyReset_node : (s.applyReset).node = Config.freeNode s.draws := rfl
@[simp] theorem State.applyReset_inBuf : (s.applyReset).inBuf = [] := rfl
@[simp] theorem State.applyReset_outBuf : (s.applyReset).outBuf = [] := rfl
@[simp] theorem State.applyReset_hostFault : (s.applyReset).hostFault = false := rfl
@[simp] theorem State.applyReset_response : (s.applyReset).response = none := rfl
@[simp] theorem State.applyReset_pending : (s.applyReset).pending = s.pending := rfl
@[simp] theorem State.applyReset_engineWait : (s.applyReset).engineWait = 0 := rfl
@[simp] theorem State.applyReset_draws : (s.applyReset).draws = s.draws + 1 := rfl
@[simp] theorem State.applyReset_epoch : (s.applyReset).epoch = s.epoch + 1 := rfl

end Sys2Proof.Machine
end

