-- ==== Sys2Proof/Laws/Exec.lean ====
section
/-! SUPPORT. Everything a step and each meaning can do, said once: later proofs cite these lemmas and
unfold neither `step` nor `exec`. -/

namespace Sys2Proof.Machine

/-! ## The meanings -/

/-- ENCODE either stores what its stages computed and succeeds, or fails with the error of its checks. -/
theorem execEncode_cases (s : State) :
    (∃ e, encodeResult s = .ok e ∧ exec .encode s = .next (s.storeEncoding e).succeed) ∨
    (∃ e, encodeResult s = .error e ∧ exec .encode s = .next (s.fail e)) := by
  simp only [exec, execEncode]
  cases encodeResult s with
  | ok e => exact .inl ⟨e, rfl, rfl⟩
  | error e => exact .inr ⟨e, rfl, rfl⟩

/-- ENCODE succeeds on a non-empty text within IN_CAP whose artifact fits OUT, and with its stages. -/
theorem encodeResult_ok_iff (s : State) (e : Encoding) :
    encodeResult s = .ok e ↔
      s.inLen.toNat ≤ s.params.inCap ∧ s.inLen.toNat ≠ 0 ∧
        (encodeText s.input).artifact.length ≤ s.params.outCap ∧ e = encodeText s.input := by
  unfold encodeResult
  split
  · next h => simp only [reduceCtorEq, false_iff]; omega
  · split
    · next h0 => simp only [reduceCtorEq, false_iff]; omega
    · next h h0 =>
      simp only
      split
      · next h2 => simp only [reduceCtorEq, false_iff]; omega
      · next h2 =>
        simp only [Except.ok.injEq]
        constructor
        · rintro rfl; exact ⟨by omega, h0, by omega, rfl⟩
        · rintro ⟨-, -, -, rfl⟩; rfl

/-- DECODE either stores what its stages computed and succeeds, or fails with their first error. -/
theorem execDecode_cases (s : State) :
    (∃ d, decodeResult s = .ok d ∧ exec .decode s = .next (s.storeDecoding d).succeed) ∨
    (∃ e, decodeResult s = .error e ∧ exec .decode s = .next (s.fail e)) := by
  simp only [exec, execDecode]
  cases decodeResult s with
  | ok d => exact .inl ⟨d, rfl, rfl⟩
  | error e => exact .inr ⟨e, rfl, rfl⟩

/-- What a successful decoding consists of. -/
theorem decodeArtifact_ok (cap : Nat) (a : Bytes) (d : Decoding) (h : decodeArtifact cap a = .ok d) :
    parseHeader a = .ok d.header ∧ d.bits = unpack d.header.payload d.header.pad ∧
      decodeBits cap d.header.table d.bits = .ok d.text := by
  unfold decodeArtifact at h
  split at h
  · cases h
  · next hd hp =>
    simp only at h
    split at h
    · cases h
    · next text ht => cases h; exact ⟨hp, rfl, ht⟩

/-- READ32 by the offset it names and the phase. -/
theorem execRead32_cases (off : Offset) (s : State) :
    (exec (.read32 off) s = .next s.refuseRead ∧
      (region s.params off = none ∨
        ∃ w, s.phase = .busy w ∧ region s.params off ≠ some (.reg .status))) ∨
    (∃ r, region s.params off = some r ∧ (s.phase = .idle ∨ r = .reg .status) ∧
      exec (.read32 off) s = .next (s.readRegion r)) := by
  simp only [exec, execRead32]
  cases hr : region s.params off with
  | none => exact .inl ⟨rfl, .inl rfl⟩
  | some r =>
    cases hp : s.phase with
    | idle => exact .inr ⟨r, rfl, .inl rfl, rfl⟩
    | busy w =>
      by_cases h : r = .reg .status
      · exact .inr ⟨r, rfl, .inr h, by simp [h]⟩
      · exact .inl ⟨by simp [h], .inr ⟨w, rfl, by simpa using h⟩⟩

/-- WRITE32 by the offset it names and the phase. -/
theorem execWrite32_cases (off : Offset) (data : Word) (s : State) :
    (exec (.write32 off data) s = .next s.refuseWrite ∧
      (region s.params off = none ∨ ∃ w, s.phase = .busy w)) ∨
    (∃ r, region s.params off = some r ∧ s.phase = .idle ∧
      exec (.write32 off data) s = .next (s.writeRegion data r).answerWrite) := by
  simp only [exec, execWrite32]
  cases hr : region s.params off with
  | none => exact .inl ⟨rfl, .inl rfl⟩
  | some r =>
    cases hp : s.phase with
    | idle => exact .inr ⟨r, rfl, rfl, rfl⟩
    | busy w => exact .inl ⟨rfl, .inr ⟨w, rfl⟩⟩

/-- READ32 of a mapped, aligned offset while IDLE. -/
theorem execRead32_idle {off : Offset} {s : State} {r : Region} (hp : s.phase = .idle)
    (hr : region s.params off = some r) : exec (.read32 off) s = .next (s.readRegion r) := by
  rcases execRead32_cases off s with ⟨-, h | ⟨w, h, -⟩⟩ | ⟨r', h, -, e⟩
  · rw [hr] at h; cases h
  · rw [hp] at h; cases h
  · rw [hr] at h; cases h; exact e

/-- WRITE32 to a mapped, aligned offset while IDLE. -/
theorem execWrite32_idle {off : Offset} {data : Word} {s : State} {r : Region} (hp : s.phase = .idle)
    (hr : region s.params off = some r) :
    exec (.write32 off data) s = .next (s.writeRegion data r).answerWrite := by
  rcases execWrite32_cases off data s with ⟨-, h | ⟨w, h⟩⟩ | ⟨r', h, -, e⟩
  · rw [hr] at h; cases h
  · rw [hp] at h; cases h
  · rw [hr] at h; cases h; exact e

/-- A read changes the response, the fault mark and the count of draws, and nothing else (R73). -/
theorem readRegion_frame (s : State) (r : Region) :
    ∃ d n, s.readRegion r = { s with response := some ⟨.okay, some d⟩, draws := n } := by
  have gate : ∀ (v : Bool) (w : Word),
      ∃ d n, s.answerGated v w = { s with response := some ⟨.okay, some d⟩, draws := n } := by
    intro v w
    cases v
    · exact ⟨_, _, rfl⟩
    · exact ⟨_, _, rfl⟩
  cases r with
  | reg r => exact ⟨_, _, rfl⟩
  | freq i => exact gate _ _
  | codeLen i => exact gate _ _
  | codeBits i w => exact gate _ _
  | node i b => cases b <;> exact gate _ _
  | inWord k => exact ⟨_, _, rfl⟩
  | outWord k => exact ⟨_, _, rfl⟩

/-- A write to a mapped offset accepts a command, stores IN_LEN, stores four IN bytes, or does nothing
(R141, R142). -/
theorem writeRegion_cases (s : State) (data : Word) (r : Region) :
    (r = .reg .cmd ∧ s.writeRegion data r = s.accept data) ∨
    (r = .reg .inLen ∧ s.writeRegion data r = { s with inLen := data }) ∨
    (∃ k, r = .inWord k ∧ s.writeRegion data r = s.storeIn k data) ∨
    s.writeRegion data r = s := by
  cases r with
  | reg r =>
    cases r
    case cmd => exact .inl ⟨rfl, rfl⟩
    case inLen => exact .inr (.inl ⟨rfl, rfl⟩)
    all_goals exact .inr (.inr (.inr rfl))
  | inWord k => exact .inr (.inr (.inl ⟨k, rfl, rfl⟩))
  | freq i => exact .inr (.inr (.inr rfl))
  | codeLen i => exact .inr (.inr (.inr rfl))
  | codeBits i w => exact .inr (.inr (.inr rfl))
  | node i b => exact .inr (.inr (.inr rfl))
  | outWord k => exact .inr (.inr (.inr rfl))

/-! ## The step -/

/-- The four things a step can be. -/
theorem step_cases (s : State) :
    (s.phase = .idle ∧ s.pending = [] ∧ step s = .next s) ∨
    (∃ w, s.phase = .busy w ∧ (s.pending = [] ∨ s.engineWait = 0) ∧ step s = exec (decodeCommand w) s) ∨
    (∃ t es k, s.pending = .txn t :: es ∧
      (s.phase = .idle ∧ k = s.engineWait ∨ s.phase ≠ .idle ∧ s.engineWait = k + 1) ∧
      step s = exec t.instr { s with pending := es, engineWait := k }) ∨
    (∃ es k, s.pending = .reset :: es ∧
      (s.phase = .idle ∧ k = s.engineWait ∨ s.phase ≠ .idle ∧ s.engineWait = k + 1) ∧
      step s = .next ({ s with pending := es, engineWait := k } : State).applyReset) := by
  obtain ⟨params, phase, status, error, errInfo, inLen, outLen, padLen, hdrLen, symCount, nodeCount,
    root, bitCount, freq, code, node, inBuf, outBuf, hostFault, response, pending, engineWait, draws,
    epoch⟩ := s
  cases phase with
  | idle =>
    cases pending with
    | nil => exact .inl ⟨rfl, rfl, rfl⟩
    | cons e es =>
      cases e with
      | txn t => exact .inr (.inr (.inl ⟨t, es, engineWait, rfl, .inl ⟨rfl, rfl⟩, rfl⟩))
      | reset => exact .inr (.inr (.inr ⟨es, engineWait, rfl, .inl ⟨rfl, rfl⟩, rfl⟩))
  | busy w =>
    cases pending with
    | nil => exact .inr (.inl ⟨w, rfl, .inl rfl, rfl⟩)
    | cons e es =>
      cases engineWait with
      | zero => exact .inr (.inl ⟨w, rfl, .inr rfl, rfl⟩)
      | succ k =>
        cases e with
        | txn t => exact .inr (.inr (.inl ⟨t, es, k, rfl, .inr ⟨by simp, rfl⟩, rfl⟩))
        | reset => exact .inr (.inr (.inr ⟨es, k, rfl, .inr ⟨by simp, rfl⟩, rfl⟩))

end Sys2Proof.Machine
end

