-- ==== Sys2Proof/Laws/Lanes.lean ====
section
/-! SUPPORT. Byte lanes (20_memory.md rule R70) and the codes a CODE entry stores (10_state.md rule R51). -/

namespace Sys2Proof.Machine

/-- A lane of a word put together from four bytes is its byte. -/
theorem lane_laneWord (b0 b1 b2 b3 : Byte) :
    lane (laneWord b0 b1 b2 b3) 0 = b0 ∧ lane (laneWord b0 b1 b2 b3) 1 = b1 ∧
      lane (laneWord b0 b1 b2 b3) 2 = b2 ∧ lane (laneWord b0 b1 b2 b3) 3 = b3 := by
  refine ⟨?_, ?_, ?_, ?_⟩ <;>
  · ext j hj
    have h0 : ¬ 8 + j < 8 := by omega
    have h1 : ¬ 16 + j < 8 := by omega
    have h2 : ¬ 24 + j < 8 := by omega
    have h3 : ¬ 16 + j < 16 := by omega
    have h4 : ¬ 24 + j < 16 := by omega
    have h5 : ¬ 24 + j < 24 := by omega
    have h6 : 8 + j < 16 := by omega
    have h7 : 8 + j < 24 := by omega
    have h8 : 16 + j < 24 := by omega
    have h9 : j < 16 := by omega
    have h10 : j < 24 := by omega
    have h11 : 8 + j < 32 := by omega
    have h12 : 16 + j < 32 := by omega
    have h13 : 24 + j < 32 := by omega
    have h14 : 16 + j - 8 = 8 + j := by omega
    have h15 : 24 + j - 8 = 16 + j := by omega
    have h16 : 24 + j - 16 = 8 + j := by omega
    have h17 : j < 32 := by omega
    have high : ∀ b : Byte, b.getLsbD (8 + j) = false ∧ b.getLsbD (16 + j) = false ∧
        b.getLsbD (24 + j) = false := fun b =>
      ⟨BitVec.getLsbD_of_ge b _ (by omega), BitVec.getLsbD_of_ge b _ (by omega),
        BitVec.getLsbD_of_ge b _ (by omega)⟩
    simp [lane, laneWord, hj, h0, h1, h2, h3, h4, h5, h6, h7, h8, h9, h10, h11, h12, h13, h14, h15,
      h16, h17, high]

/-- An entry that stores a code of at most 255 bits gives it back. -/
theorem CodeEntry.bits_ofBits (c : Bits) (h : c.length ≤ 255) : (CodeEntry.ofBits c).bits = c := by
  have hl : (BitVec.ofNat 8 c.length).toNat = c.length := by
    rw [BitVec.toNat_ofNat]; omega
  apply List.ext_getElem
  · simp [CodeEntry.bits, CodeEntry.ofBits, hl]
  · intro j h1 h2
    have hj : j < 256 := by omega
    simp [CodeEntry.bits, CodeEntry.ofBits, BitVec.getMsbD_ofFnBE, hj, h2]

end Sys2Proof.Machine
end

