-- ==== Sys2Proof/Laws/PerInstr.lean ====
section
/-! SUPPORT. Statements about every instruction as syntax, one lemma per constructor. -/

namespace Sys2Proof.Laws

theorem bytesOf_length (n v : Nat) : (bytesOf n v).length = n := by
  induction n generalizing v with
  | zero => rfl
  | succ n ih => simp [bytesOf, ih]

theorem hexText_length (n v : Nat) : (hexText n v).length = n := by
  induction n generalizing v with
  | zero => rfl
  | succ n ih => simp [hexText, ih]

/-- A command's encoding has 4 bytes, a READ32's 8, a WRITE32's 17 (R103, R105). -/
def EncodingLength.Statement (i : Instr) : Prop :=
  (encode i).length = 4 ∧ (commandWord i).isSome = true ∨
    (encode i).length = 8 ∧ (∃ off, i = .read32 off) ∨
    (encode i).length = 17 ∧ (∃ off data, i = .write32 off data)

theorem EncodingLength.encode : EncodingLength.Statement .encode := .inl ⟨rfl, rfl⟩

theorem EncodingLength.decode : EncodingLength.Statement .decode := .inl ⟨rfl, rfl⟩

theorem EncodingLength.clear : EncodingLength.Statement .clear := .inl ⟨rfl, rfl⟩

theorem EncodingLength.illegal (w : Word) : EncodingLength.Statement (.illegal w) := .inl ⟨rfl, rfl⟩

theorem EncodingLength.read32 (off : Offset) : EncodingLength.Statement (.read32 off) :=
  .inr (.inl ⟨rfl, off, rfl⟩)

theorem EncodingLength.write32 (off : Offset) (data : Word) :
    EncodingLength.Statement (.write32 off data) :=
  .inr (.inr ⟨rfl, off, data, rfl⟩)

end Sys2Proof.Laws
end

