-- ==== Sys2Proof/Laws/Region.lean ====
section
/-! SUPPORT. The address map (20_memory.md rule R75), one lemma per region. -/

namespace Sys2Proof

/-- IN_CAP's constraint (R7). -/
theorem Params.inCap_bounds (p : Params) : 4 ≤ p.inCap ∧ p.inCap ≤ 2 ^ 20 ∧ p.inCap % 4 = 0 := by
  have := p.inWords.isLt
  unfold Params.inCap
  omega

/-- OUT_CAP's constraint (R7). -/
theorem Params.outCap_bounds (p : Params) : 4 ≤ p.outCap ∧ p.outCap ≤ 2 ^ 20 ∧ p.outCap % 4 = 0 := by
  have := p.outWords.isLt
  unfold Params.outCap
  omega

end Sys2Proof

namespace Sys2Proof.Machine

/-- Every register is at its offset (R34). -/
@[simp] theorem region_reg (p : Params) (r : Reg) : region p r.offset = some (.reg r) := by
  cases r <;> rfl

/-- The IN window (R53). -/
theorem region_in (p : Params) (off : Offset) (k : Nat) (h : off.toNat = 0x100000 + 4 * k)
    (hk : 4 * k < p.inCap) : region p off = some (.inWord (4 * k)) := by
  have hb := p.inCap_bounds
  unfold region
  simp only [h]
  repeat rw [if_neg (by omega)]
  rw [if_pos (by omega)]
  simp

/-- The OUT window (R54). -/
theorem region_out (p : Params) (off : Offset) (k : Nat) (h : off.toNat = 0x200000 + 4 * k)
    (hk : 4 * k < p.outCap) : region p off = some (.outWord (4 * k)) := by
  have hi := p.inCap_bounds
  have hb := p.outCap_bounds
  unfold region
  simp only [h]
  repeat rw [if_neg (by omega)]
  rw [if_pos (by omega)]
  simp

/-- The FREQ window (R50). -/
theorem region_freq (p : Params) (off : Offset) (i : Fin 256) (h : off.toNat = 0x1000 + 4 * i.val) :
    region p off = some (.freq i) := by
  have hi := i.isLt
  unfold region
  simp only [h]
  repeat rw [if_neg (by omega)]
  rw [if_pos (by omega)]
  have : (0x1000 + 4 * i.val - 0x1000) / 4 = i.val := by omega
  rw [this, Fin.ofNat_val_eq_self]

/-- The CODE_LEN window (R51). -/
theorem region_codeLen (p : Params) (off : Offset) (i : Fin 256)
    (h : off.toNat = 0x1400 + 4 * i.val) : region p off = some (.codeLen i) := by
  have hi := i.isLt
  unfold region
  simp only [h]
  repeat rw [if_neg (by omega)]
  rw [if_pos (by omega)]
  have : (0x1400 + 4 * i.val - 0x1400) / 4 = i.val := by omega
  rw [this, Fin.ofNat_val_eq_self]

/-- The CODE_BITS window (R51). -/
theorem region_codeBits (p : Params) (off : Offset) (i : Fin 256) (w : Fin 8)
    (h : off.toNat = 0x2000 + 32 * i.val + 4 * w.val) : region p off = some (.codeBits i w) := by
  have hi := i.isLt
  have hw := w.isLt
  unfold region
  simp only [h]
  repeat rw [if_neg (by omega)]
  rw [if_pos (by omega)]
  have h1 : (0x2000 + 32 * i.val + 4 * w.val - 0x2000) / 32 = i.val := by omega
  have h2 : (0x2000 + 32 * i.val + 4 * w.val - 0x2000) % 32 / 4 = w.val := by omega
  rw [h1, h2, Fin.ofNat_val_eq_self, Fin.ofNat_val_eq_self]

/-- The NODE window (R52). -/
theorem region_node (p : Params) (off : Offset) (i : Fin 511) (b : Bool)
    (h : off.toNat = 0x4000 + 8 * i.val + (if b then 4 else 0)) :
    region p off = some (.node i b) := by
  have hi := i.isLt
  unfold region
  simp only [h]
  cases b
  · simp only [Bool.false_eq_true, if_false]
    repeat rw [if_neg (by omega)]
    rw [if_pos (by omega)]
    have h1 : (0x4000 + 8 * i.val + 0 - 0x4000) / 8 = i.val := by omega
    have h2 : (0x4000 + 8 * i.val + 0 - 0x4000) % 8 ≠ 4 := by omega
    rw [h1, Fin.ofNat_val_eq_self, decide_eq_false h2]
  · simp only [if_true]
    repeat rw [if_neg (by omega)]
    rw [if_pos (by omega)]
    have h1 : (0x4000 + 8 * i.val + 4 - 0x4000) / 8 = i.val := by omega
    have h2 : (0x4000 + 8 * i.val + 4 - 0x4000) % 8 = 4 := by omega
    rw [h1, Fin.ofNat_val_eq_self, decide_eq_true h2]

/-- An IN word lies within IN_CAP. -/
theorem region_in_bound (p : Params) (off : Offset) (k : Nat) (h : region p off = some (.inWord k)) :
    k + 4 ≤ p.inCap := by
  have hb := p.inCap_bounds
  unfold region at h
  simp only at h
  repeat' (split at h)
  all_goals simp only [Option.map_eq_some_iff, Option.some.injEq, reduceCtorEq, Region.inWord.injEq,
    and_false, exists_false] at h
  omega

end Sys2Proof.Machine
end

