-- ==== Sys2Proof/Laws/Stages.lean ====
section
/-! SUPPORT. What the small functions of the codec's stages do, said once: the parser's pieces (45_header_codec.md),
the packer's sizes (44_bit_packer.md) and selection (42_tree_builder.md). -/

namespace Sys2Proof.Machine

/-- `expect` of each byte in turn succeeds exactly where those bytes stand, and moves past them (R241). -/
theorem expectBytes_ok_iff (bs : Bytes) (c c' : Cursor) :
    expectBytes bs c = .ok c' ↔ c.rest = bs ++ c'.rest ∧ c'.pos = c.pos + bs.length := by
  induction bs generalizing c with
  | nil =>
    obtain ⟨r, p⟩ := c; obtain ⟨r', p'⟩ := c'
    simp only [expectBytes, Except.ok.injEq, Cursor.mk.injEq, List.nil_append, List.length_nil,
      Nat.add_zero]
    exact and_congr_right fun _ => eq_comm
  | cons b bs ih =>
    obtain ⟨r, p⟩ := c
    cases r with
    | nil => simp [expectBytes]
    | cons x xs =>
      simp only [expectBytes]
      split
      · next h =>
        subst h
        rw [ih]
        simp only [List.cons_append, List.cons.injEq, true_and, List.length_cons]
        exact and_congr_right fun _ => by omega
      · next h => simp [h]

/-- A failing `expect` is HEADER_PARSE at an offset it reached (R241). -/
theorem expectBytes_error (bs : Bytes) (c : Cursor) (e : CmdError)
    (h : expectBytes bs c = .error e) :
    ∃ p, e = headerParseAt p ∧ c.pos ≤ p ∧ p ≤ c.pos + c.rest.length := by
  induction bs generalizing c with
  | nil => cases c; cases h
  | cons b bs ih =>
    obtain ⟨r, p⟩ := c
    cases r with
    | nil => simp only [expectBytes, Except.error.injEq] at h; exact ⟨p, h.symm, by simp⟩
    | cons x xs =>
      simp only [expectBytes] at h
      split at h
      · obtain ⟨q, rfl, h1, h2⟩ := ih _ h
        simp only [List.length_cons] at *
        exact ⟨q, rfl, by omega, by omega⟩
      · simp only [Except.error.injEq] at h; exact ⟨p, h.symm, by simp⟩

/-- `expect` fails with HEADER_PARSE at the first byte that differs (R241, R292). -/
theorem expectBytes_differs {bs : Bytes} {c : Cursor} {d : Nat} (h : differsAt bs c.rest d) :
    expectBytes bs c = .error (headerParseAt (c.pos + d)) := by
  induction bs generalizing c d with
  | nil => exact absurd h.1 (Nat.not_lt_zero d)
  | cons b bs ih =>
    obtain ⟨rest, pos⟩ := c
    obtain ⟨hd, ht, hx⟩ := h
    cases d with
    | zero =>
      cases rest with
      | nil => rfl
      | cons x xs => exact if_neg fun e => hx (congrArg some e)
    | succ d =>
      cases rest with
      | nil => cases ht
      | cons x xs =>
        obtain ⟨rfl, ht'⟩ := List.cons.inj ht
        have := ih (c := ⟨xs, pos + 1⟩) ⟨Nat.lt_of_succ_lt_succ hd, ht', hx⟩
        simp only [expectBytes, if_true, this]
        congr 2
        omega

/-- The serialiser's pair is the grammar's (R110, R240). -/
theorem pairBytes_eq (s : Byte) (c : Bits) : pairBytes s c = pairText s c := by
  have : bitChar = fun b => if b then 0x31#8 else 0x30#8 := by funext b; cases b <;> rfl
  simp [pairBytes, pairText, dashesText, codeText, separatorText, this]

/-- A code is read exactly where its bits and then a SP stand, and is neither empty nor longer than 255
bits (R244). -/
theorem readCode_ok_iff (bs : Bytes) (pos : Nat) (done c : Bits) (c' : Cursor) (hd : done.length ≤ 255) :
    readCode bs pos done = .ok (c, c') ↔
      ∃ more, c = done ++ more ∧ bs = more.map bitChar ++ c'.rest ∧ c'.pos = pos + more.length ∧
        c ≠ [] ∧ c.length ≤ 255 ∧ c'.rest.head? = some 0x20 := by
  induction bs generalizing pos done with
  | nil =>
    simp only [readCode, reduceCtorEq, false_iff, not_exists, not_and]
    intro more _ h _ _ _
    have := congrArg List.length h
    simp only [List.length_nil, List.length_append, List.length_map] at this
    have hc : c'.rest = [] := List.eq_nil_of_length_eq_zero (by omega)
    simp [hc]
  | cons x xs ih =>
    simp only [readCode]
    split
    · next hx =>
      split
      · next hl =>
        simp only [reduceCtorEq, false_iff, not_exists, not_and]
        rintro more rfl h _ _ h5 h6
        cases more with
        | nil =>
          simp only [List.map_nil, List.nil_append] at h
          rw [← h] at h6
          simp only [List.head?_cons, Option.some.injEq] at h6
          subst h6; rcases hx with hx | hx <;> exact absurd hx (by decide)
        | cons b more => simp at h5; omega
      · next hl =>
        rw [ih _ _ (by simp; omega)]
        have hb : bitChar (decide (x = 0x31#8)) = x := by
          rcases hx with rfl | rfl <;> rfl
        constructor
        · rintro ⟨more, rfl, rfl, h3, h4, h5, h6⟩
          exact ⟨decide (x = 0x31#8) :: more, by simp, by simp [hb], by simp; omega, h4, h5, h6⟩
        · rintro ⟨more, rfl, h2, h3, h4, h5, h6⟩
          cases more with
          | nil =>
            simp only [List.map_nil, List.nil_append] at h2
            rw [← h2] at h6
            simp only [List.head?_cons, Option.some.injEq] at h6
            subst h6; rcases hx with hx | hx <;> exact absurd hx (by decide)
          | cons b more =>
            simp only [List.map_cons, List.cons_append, List.cons.injEq] at h2
            have : b = decide (x = 0x31#8) := by
              rw [h2.1]; cases b <;> rfl
            subst this
            exact ⟨more, by simp, h2.2, by simp at h3; omega, h4, h5, h6⟩
    · next hx =>
      have hne : ∀ b, bitChar b ≠ x := by
        intro b hb; apply hx; cases b
        · exact .inl hb.symm
        · exact .inr hb.symm
      have none_more : ∀ more, x :: xs = more.map bitChar ++ c'.rest → more = [] := by
        intro more h
        cases more with
        | nil => rfl
        | cons b more => simp only [List.map_cons, List.cons_append, List.cons.injEq] at h
                         exact absurd h.1.symm (hne b)
      split
      · next h2 =>
        simp only [reduceCtorEq, false_iff, not_exists, not_and]
        intro more _ h _ _ _ h6
        cases none_more more h
        simp only [List.map_nil, List.nil_append] at h
        rw [← h] at h6
        simp only [List.head?_cons, Option.some.injEq] at h6
        exact h2 h6
      · next h2 =>
        have hx20 : x = 0x20#8 := by simpa using h2
        split
        · next h3 =>
          simp only [reduceCtorEq, false_iff, not_exists, not_and]
          intro more h1 h _ h4 _ _
          cases none_more more h
          exact h4 (by simp [h1, h3])
        · next h3 =>
          simp only [Except.ok.injEq, Prod.mk.injEq]
          constructor
          · rintro ⟨rfl, rfl⟩
            exact ⟨[], by simp, by simp, by simp, h3, hd, by simp [hx20]⟩
          · rintro ⟨more, rfl, h, hp, -, -, -⟩
            cases none_more more h
            obtain ⟨r, p⟩ := c'
            simp only [List.map_nil, List.nil_append, List.length_nil, Nat.add_zero] at h hp
            subst h hp
            simp

/-- Eight bits a byte. -/
@[simp] theorem byteBits_length (b : Byte) : (byteBits b).length = 8 := by simp [byteBits]

/-- The payload holds the bits and the filler (R223). -/
theorem pack_byte_count (bits : Bits) :
    (pack bits).length = (bits.length + padLength bits.length) / 8 := by simp [pack]

/-- The first selected index is one of the collection (R192). -/
theorem argmin_mem (arena : List Node) (w : List Nat) (x : Nat) (h : argmin arena w = some x) :
    x ∈ w := by
  induction w generalizing x with
  | nil => cases h
  | cons i w ih =>
    simp only [argmin] at h
    split at h
    · cases h; exact List.mem_cons_self
    · next j hj =>
      split at h
      · cases h; exact List.mem_cons_self
      · cases h; exact List.mem_cons_of_mem _ (ih _ hj)

/-- Nothing is selected from the empty collection alone (R194). -/
theorem argmin_eq_none_iff (arena : List Node) (w : List Nat) : argmin arena w = none ↔ w = [] := by
  cases w with
  | nil => simp [argmin]
  | cons i w =>
    simp only [argmin, reduceCtorEq, iff_false]
    split
    · simp
    · split <;> simp

end Sys2Proof.Machine
end

