-- ==== Sys2Proof/Tests/Slice0.lean ====
section
/-! SUPPORT. Tests: ill-formed terms, decoding of words written out from 30_encoding.md, at most two small
tests per instruction with the results of 95_test_vectors.md, and a witness for the hypotheses of every
obligation that has any. -/

open Sys2Proof Sys2Proof.Machine

namespace Sys2Proof.Tests

/-! ## Small states -/

/-- A capacity of the given bytes (a multiple of 4). -/
def capacity (bytes : Nat) : Fin 262144 := Fin.ofNat 262144 (bytes / 4 - 1)

/-- The state after reset of a block with the given capacities. -/
def blank (inCap outCap : Nat) : State :=
  State.afterReset ⟨capacity inCap, capacity outCap⟩ 0 0 []

/-- `blank` with a byte string loaded as the input. -/
def holding (inCap outCap : Nat) (bs : Bytes) : State :=
  { blank inCap outCap with
    inBuf := Memory.writeBytes [] 0 bs
    inLen := BitVec.ofNat 32 bs.length }

/-- The state with a command word accepted. -/
def accepted (w : Word) (s : State) : State :=
  { s with phase := .busy w, status := acceptStatus w }

/-- The state with events to come and the given engine wait. -/
def waiting (es : List Event) (k : Nat) (s : State) : State :=
  { s with pending := es, engineWait := k }

/-- A view of the next state an outcome answers. -/
def result {α : Type} (o : Host.Outcome State Fault Refusal) (f : State → α) : Option α :=
  match o with
  | .next t => some (f t)
  | .fault _ => none
  | .refused _ => none

/-- What a view of the next state says. -/
theorem of_result {α : Type} {o : Host.Outcome State Fault Refusal} {f : State → α} {a : α}
    (h : result o f = some a) : ∃ t, o = .next t ∧ f t = a := by
  cases o with
  | next t => exact ⟨t, rfl, Option.some.inj h⟩
  | fault r => cases r
  | refused r => cases h

/-- A state with every valid bit 1 and two readable OUT bytes. -/
def shown : State :=
  { blank 64 64 with
    status := 0x0000017A
    outLen := 2
    outBuf := [(0, 0x61), (1, 0x62)] }

/-- The text `ab` (V-ENC-4). -/
def textAb : Bytes := [0x61, 0x62]

/-- Artifact(`ab`) (V-ENC-4): `a --0 Nx b --1 Nx END 6 END` 0x40. -/
def artifactAb : Bytes :=
  [0x61, 0x20, 0x2D, 0x2D, 0x30, 0x20, 0x4E, 0x78, 0x20] ++
  [0x62, 0x20, 0x2D, 0x2D, 0x31, 0x20, 0x4E, 0x78, 0x20] ++
  [0x45, 0x4E, 0x44, 0x20, 0x36, 0x20, 0x45, 0x4E, 0x44, 0x40]

/-- The header `END 0 END` alone: no pair and no payload. -/
def artifactNone : Bytes := [0x45, 0x4E, 0x44, 0x20, 0x30, 0x20, 0x45, 0x4E, 0x44]

/-- `a --0xNy` (V-DEC-E23). -/
def artifactBadBit : Bytes := [0x61, 0x20, 0x2D, 0x2D, 0x30, 0x78, 0x4E, 0x79]

/-- The code table of `banana` (95, P4): a `0`, b `10`, n `11`. -/
def tableBanana : CodeList :=
  [(0x61, [false]), (0x62, [true, false]), (0x6E, [true, true])]

/-! ## Well-formedness: the one check refuses each legal command word -/

theorem test_illegal_1_ill_formed : (Instr.illegal 0x00000001).wf = false := by decide
theorem test_illegal_2_ill_formed : (Instr.illegal 0x00000002).wf = false := by decide
theorem test_illegal_3_ill_formed : (Instr.illegal 0x00000003).wf = false := by decide
theorem test_illegal_well_formed :
    (Instr.illegal 0x00000000).wf = true ∧ (Instr.illegal 0x00000101).wf = true := by decide

/-! ## Decoding: words written out from R100, R102, R105 -/

theorem test_decode_encode_word : decode [0x01, 0x00, 0x00, 0x00] = .ok .encode := by rfl
theorem test_decode_decode_word : decode [0x02, 0x00, 0x00, 0x00] = .ok .decode := by rfl
theorem test_decode_clear_word : decode [0x03, 0x00, 0x00, 0x00] = .ok .clear := by rfl
theorem test_decode_illegal_word :
    decode [0x00, 0x00, 0x00, 0x00] = .ok (.illegal 0x00000000) ∧
      decode [0x01, 0x00, 0x00, 0x80] = .ok (.illegal 0x80000001) := ⟨rfl, rfl⟩

/-- `R:200040` (95, P1). -/
theorem test_decode_read32_text :
    decode [0x52, 0x3A, 0x32, 0x30, 0x30, 0x30, 0x34, 0x30] = .ok (.read32 0x200040) := by rfl

/-- `W:10003C:8A6E444E` (95, P2), and its data in small letters. -/
theorem test_decode_write32_text :
    decode [0x57, 0x3A, 0x31, 0x30, 0x30, 0x30, 0x33, 0x43, 0x3A,
        0x38, 0x41, 0x36, 0x45, 0x34, 0x34, 0x34, 0x45] = .ok (.write32 0x10003C 0x8A6E444E) ∧
      decode [0x57, 0x3A, 0x31, 0x30, 0x30, 0x30, 0x33, 0x63, 0x3A,
        0x38, 0x61, 0x36, 0x65, 0x34, 0x34, 0x34, 0x65] = .ok (.write32 0x10003C 0x8A6E444E) :=
  ⟨rfl, rfl⟩

/-- Each rejection has its name. -/
theorem test_decode_rejections :
    decode [0x01, 0x00, 0x00] = .error .badLength ∧
      decode [0x58, 0x3A, 0x30, 0x30, 0x30, 0x30, 0x30, 0x34] = .error .badKind ∧
      decode [0x52, 0x20, 0x30, 0x30, 0x30, 0x30, 0x30, 0x34] = .error .missingColon ∧
      decode [0x52, 0x3A, 0x30, 0x30, 0x30, 0x30, 0x30, 0x47] = .error .badHexDigit ∧
      decode [0x52, 0x3A, 0x34, 0x30, 0x30, 0x30, 0x30, 0x30] = .error .offsetTooWide :=
  ⟨rfl, rfl, rfl, rfl, rfl⟩

/-- `W:000000:00000001` (95, P1), byte by byte. -/
theorem test_encode_write32_text :
    encode (.write32 0x000000 0x00000001) =
      [0x57, 0x3A, 0x30, 0x30, 0x30, 0x30, 0x30, 0x30, 0x3A,
        0x30, 0x30, 0x30, 0x30, 0x30, 0x30, 0x30, 0x31] := by decide

/-! ## One step per instruction -/

/-- The stages of V-ENC-4: NODE[2] = 2 with LEFT 0 and RIGHT 1, a "0", b "1", bits "01", pad 6. -/
theorem test_encode_ab :
    (encodeText textAb).artifact = artifactAb ∧ (encodeText textAb).pad = 6 ∧
      (encodeText textAb).bits = [false, true] ∧
      (encodeText textAb).codes = [(0x61, [false]), (0x62, [true])] ∧
      (encodeText textAb).tree =
        ⟨[Node.ofSymbol 1 0x61, Node.ofSymbol 1 0x62, Node.internal 2 0 1], 2⟩ := by
  decide +kernel

/-- V-ENC-E1: EMPTY_INPUT, as the first step after an accepted ENCODE. -/
theorem test_encode_empty :
    result (step (State.reset.withFetchWord 32 1)) (fun t => (t.status, t.error, t.errInfo)) =
      some (0x00000106, 0x01, 0) := by decide

/-- Decoding Artifact(`ab`) gives `ab`, PAD_LEN 6, HDR_LEN 27, BIT_COUNT 2. -/
theorem test_decode_ab :
    result (exec .decode (accepted 2 (holding 64 64 artifactAb)))
      (fun t => (t.status, t.outBuf, t.padLen, t.hdrLen, t.bitCount)) =
      some (0x0000024A, [(0, 0x61), (1, 0x62)], 6, 27, 2) := by decide +kernel

/-- V-DEC-E23: INVALID_BIT at offset 5. -/
theorem test_decode_invalid_bit :
    result (exec .decode (accepted 2 (holding 64 64 artifactBadBit)))
      (fun t => (t.status, t.error, t.errInfo)) = some (0x00000206, 0x04, 5) := by decide +kernel

/-- V-CLR-1. -/
theorem test_clear_after_error :
    result (exec .clear { accepted 3 (blank 64 64) with error := 0x01 })
      (fun t => (t.status, t.error)) = some (0x00000302, 0) := by decide

/-- V-CLR-2: the result registers are cleared and OUT is not readable. -/
theorem test_clear_results :
    result (exec .clear { accepted 3 (blank 64 64) with outLen := 28, symCount := 2 })
      (fun t => (t.outLen, t.symCount, t.outByte 0)) = some (0, 0, none) := by decide

/-- V-ILL-3: the low byte alone is LAST_CMD, the whole word ERR_INFO. -/
theorem test_illegal_101 :
    result (exec (.illegal 0x101) (accepted 0x101 (blank 64 64)))
      (fun t => (t.status, t.error, t.errInfo)) = some (0x00000106, 0x11, 0x101) := by decide

/-- V-ILL-2, as the first step after its acceptance. -/
theorem test_illegal_0 :
    result (step (State.reset.withFetchWord 32 0)) (fun t => (t.status, t.error, t.errInfo)) =
      some (0x00000006, 0x11, 0) := by decide

/-- V-BUS-1: ID. -/
theorem test_read32_id :
    result (exec (.read32 0x000038) (blank 64 64)) (fun t => t.response) =
      some (some ⟨.okay, some 0x48554631⟩) := by decide

/-- V-BUS-3, V-BUS-4, V-BUS-7: SLVERR and the fault mark. -/
theorem test_read32_slverr :
    let seen := fun off => result (exec (.read32 off) (blank 64 64))
      (fun t => (t.hostFault, t.response.map (·.resp)))
    seen 0x000002 = some (true, some .slverr) ∧ seen 0x00003C = some (true, some .slverr) ∧
      seen 0x100040 = some (true, some .slverr) := by decide

/-- V-BUS-9: byte lanes of IN. -/
theorem test_write32_in :
    result (exec (.write32 0x100000 0x61726261) (blank 64 64)) (fun t => (t.inBuf, t.response)) =
      some ([(0, 0x61), (1, 0x62), (2, 0x72), (3, 0x61)], some ⟨.okay, none⟩) := by decide

/-- V-BUS-11: acceptance, and the refusal of a second CMD write while BUSY. -/
theorem test_write32_cmd :
    result (exec (.write32 0x000000 0x00000001) (blank 64 64)) (fun t => (t.phase, t.status)) =
        some (.busy 1, 0x00000101) ∧
      result (exec (.write32 0x000000 0x00000003) (accepted 1 (blank 64 64)))
        (fun t => (t.phase, t.status, t.hostFault)) = some (.busy 1, 0x00000101, true) := by decide

/-! ## Witnesses: the hypotheses of each obligation hold of something -/

theorem witness_DecodeOfEncode :
    Instr.encode.wf = true ∧ Instr.decode.wf = true ∧ Instr.clear.wf = true ∧
      (Instr.illegal 0xFFFFFFFF).wf = true ∧ (Instr.read32 0x3FFFFF).wf = true ∧
      (Instr.write32 0x3FFFFF 0xFFFFFFFF).wf = true := by decide

theorem witness_EveryCommandWordDecodes :
    ([0x01, 0x00, 0x00, 0xFF] : Bytes).length = 4 ∧ (Instr.illegal 0xFF000001).wf = true ∧
      commandWord (.illegal 0xFF000001) =
        some (BitVec.ofNat 32 (littleEndian [0x01, 0x00, 0x00, 0xFF])) := by decide

/-- `R:00001c`: accepted, although the encoder writes `R:00001C`. -/
theorem witness_DecodedIsWellFormed :
    decode [0x52, 0x3A, 0x30, 0x30, 0x30, 0x30, 0x31, 0x63] = .ok (.read32 0x00001C) := by rfl

theorem witness_EngineDispatchesByWord :
    let due := fun w => accepted w (blank 64 64)
    let first := fun w => waiting [.reset] 0 (due w)
    ((due 1).phase = .busy 1 ∧ (due 1).pending = []) ∧
      ((due 2).phase = .busy 2 ∧ (due 2).pending = []) ∧
      ((first 3).phase = .busy 3 ∧ (first 3).engineWait = 0) ∧
      (first 0x101).phase = .busy 0x101 ∧ (first 0x101).engineWait = 0 := by decide

theorem witness_StepServesNextTransaction :
    let s := waiting [.txn (.read32 0x004)] 0 (blank 64 64)
    let u := waiting [.txn (.read32 0x004), .reset] 3 (accepted 7 (blank 64 64))
    (s.pending = .txn (.read32 0x004) :: [] ∧ s.phase = .idle) ∧
      u.pending = .txn (.read32 0x004) :: [.reset] ∧ u.phase = .busy 7 ∧ u.engineWait = 2 + 1 := by
  decide

theorem witness_StepRunsPlacedInstruction :
    decodeTableWord 32 0x00000003 = some .clear ∧
      decodeTableWord 64 0x3430303030303A52 = some (.read32 0x000004) ∧
      commandWord .clear = some 0x00000003 ∧ commandWord (.read32 0x000004) = none := by decide

theorem witness_IdleBlockWaits :
    (blank 64 64).phase = .idle ∧ (blank 64 64).pending = [] := by decide

/-- A reset that abandons the command, and a queue whose reset comes after the engine step. -/
theorem witness_AcceptedCommandCompletes :
    let s := waiting [.reset, .reset] 5 (accepted 2 (blank 64 64))
    let u := waiting [.txn (.read32 0x004), .txn (.write32 0x010 7), .reset] 2 (accepted 2 (blank 64 64))
    s.phase = .busy 2 ∧ u.phase = .busy 2 ∧
      u.pending.take u.engineWait = [.txn (.read32 0x004), .txn (.write32 0x010 7)] ∧
      ∀ e, e ∈ u.pending.take u.engineWait → e ≠ .reset := by decide

theorem witness_StepKeepsInvariant : (accepted 1 (blank 64 64)).Inv ∧ shown.Inv := by
  constructor
  · exact ⟨rfl, by unfold State.validInv; decide, by unfold State.registerInv; decide,
      by unfold State.bufferInv; decide⟩
  · refine ⟨⟨by decide, by decide, by decide, by decide⟩, by unfold State.validInv; decide,
      by unfold State.registerInv; decide, by unfold State.bufferInv; decide⟩

theorem witness_ResetAbandonsCommand :
    let s := waiting [.reset, .txn (.read32 0x004)] 1 (accepted 1 (blank 64 64))
    let u := waiting [.reset] 0 (blank 64 64)
    (s.pending = .reset :: [.txn (.read32 0x004)] ∧ s.engineWait ≠ 0) ∧
      u.pending = .reset :: [] ∧ u.phase = .idle := by decide

theorem witness_CapacitiesNeverChange :
    ∃ t, step (waiting [.reset] 0 (blank 64 28)) = .next t ∧ t.phase = .idle :=
  of_result (by decide)

/-- A fault mark that stays, and a misaligned transaction that sets it. -/
theorem witness_HostFaultIsSticky :
    let s := { blank 64 64 with hostFault := true }
    let u := waiting [.txn (.read32 0x002)] 0 (blank 64 64)
    (∃ t, step s = .next t ∧ t.hostFault = true) ∧ s.hostFault = true ∧
      (∀ es, s.pending ≠ .reset :: es) ∧
      (∃ t, step u = .next t ∧ t.hostFault = true) ∧ u.hostFault = false :=
  ⟨of_result (by decide), rfl, fun _ h => (nomatch h), of_result (by decide), rfl⟩

theorem witness_ResultsStayUntilNextCommand :
    let s := waiting [.txn (.write32 0x010 7)] 0 shown
    s.phase = .idle ∧ (∃ t, step s = .next t ∧ t.phase = .idle) ∧ ∀ es, s.pending ≠ .reset :: es :=
  ⟨rfl, of_result (by decide), fun _ h => (nomatch h)⟩

theorem witness_RegisterReads : shown.phase = .idle := by decide

theorem witness_FreqWindowReads :
    shown.phase = .idle ∧ statusFreqValid shown.status = true ∧
      (0x1000#22).toNat = 0x1000 + 4 * (0 : Fin 256).val ∧
      (0x13FC#22).toNat = 0x1000 + 4 * (255 : Fin 256).val := by decide

theorem witness_CodeWindowsRead :
    shown.phase = .idle ∧ statusCodeValid shown.status = true ∧
      (0x1400#22).toNat = 0x1400 + 4 * (0 : Fin 256).val ∧
      (0x17FC#22).toNat = 0x1400 + 4 * (255 : Fin 256).val ∧
      (0x2000#22).toNat = 0x2000 + 32 * (0 : Fin 256).val + 4 * (0 : Fin 8).val ∧
      (0x3FFC#22).toNat = 0x2000 + 32 * (255 : Fin 256).val + 4 * (7 : Fin 8).val := by decide

theorem witness_NodeWindowReads :
    shown.phase = .idle ∧ statusTreeValid shown.status = true ∧
      (0x4000#22).toNat = 0x4000 + 8 * (0 : Fin 511).val ∧
      (0x4FF0#22).toNat = 0x4000 + 8 * (510 : Fin 511).val ∧
      (0x4FF4#22).toNat = 0x4004 + 8 * (510 : Fin 511).val := by decide

/-- The first and the last word of each window, while its valid bit is 0. -/
theorem witness_InvalidWindowReadSucceeds :
    (blank 64 64).phase = .idle ∧ statusFreqValid (blank 64 64).status = false ∧
      statusCodeValid (blank 64 64).status = false ∧ statusTreeValid (blank 64 64).status = false ∧
      (0x1000 ≤ (0x1000#22).toNat ∧ (0x13FC#22).toNat < 0x1400 ∧ (0x13FC#22).toNat % 4 = 0) ∧
      (0x1400 ≤ (0x1400#22).toNat ∧ (0x17FC#22).toNat < 0x1800 ∧ (0x17FC#22).toNat % 4 = 0) ∧
      (0x2000 ≤ (0x2000#22).toNat ∧ (0x3FFC#22).toNat < 0x4000 ∧ (0x3FFC#22).toNat % 4 = 0) ∧
      0x4000 ≤ (0x4000#22).toNat ∧ (0x4FF4#22).toNat < 0x4FF8 ∧ (0x4FF4#22).toNat % 4 = 0 := by
  decide

/-- The last words of IN and OUT, and a readable OUT byte. -/
theorem witness_BufferReadLanes :
    shown.phase = .idle ∧ 4 * 15 < shown.params.inCap ∧ (0x10003C#22).toNat = 0x100000 + 4 * 15 ∧
      4 * 15 < shown.params.outCap ∧ (0x20003C#22).toNat = 0x200000 + 4 * 15 ∧
      4 * 0 < shown.params.outCap ∧ (0x200000#22).toNat = 0x200000 + 4 * 0 ∧
      statusOutValid shown.status = true ∧ 4 * 0 + 1 < shown.outLen.toNat ∧
      Memory.read shown.outBuf (4 * 0 + 1) = some 0x62 := by decide

theorem witness_InWriteStoresFourBytes :
    (blank 64 64).phase = .idle ∧ 4 * 15 < (blank 64 64).params.inCap ∧
      (0x10003C#22).toNat = 0x100000 + 4 * 15 ∧ Memory.wf (blank 64 64).inBuf = true := by decide

theorem witness_InLenWriteStoresAnyWord : (blank 64 64).phase = .idle := by decide

theorem witness_CmdWriteIsAccepted : shown.phase = .idle := by decide

/-- The ends of the five read-only ranges. -/
theorem witness_ReadOnlyWriteIsIgnored :
    let ro := mappedReadOnly (blank 64 64).params
    (blank 64 64).phase = .idle ∧ ro 0x004 ∧ ro 0x00C ∧ ro 0x014 ∧ ro 0x038 ∧ ro 0x1000 ∧ ro 0x17FC ∧
      ro 0x2000 ∧ ro 0x4FF4 ∧ ro 0x200000 ∧ ro 0x20003C := by
  simp only [mappedReadOnly]; and_intros <;> decide +kernel

/-- A misaligned offset, and the ends of the five unmapped ranges. -/
theorem witness_BadOffsetGetsSlverr :
    let bad := misalignedOrUnmapped (blank 64 64).params
    bad 0x001 ∧ bad 0x03C ∧ bad 0xFFC ∧ bad 0x1800 ∧ bad 0x1FFC ∧ bad 0x4FF8 ∧ bad 0x0FFFFC ∧
      bad 0x100040 ∧ bad 0x1FFFFC ∧ bad 0x200040 ∧ bad 0x3FFFFC := by
  simp only [misalignedOrUnmapped]; and_intros <;> decide +kernel

theorem witness_BusyRefusesAllButStatusRead :
    (accepted 1 (blank 64 64)).phase = .busy 1 ∧ (0x000 : Offset) ≠ 0x004 := by decide

/-- Five bytes (one word and a part of one), and as many as IN holds. -/
theorem witness_LoadInLoadsItsBytes :
    let few : Bytes := [0x61, 0x62, 0x63, 0x64, 0x65]
    let full : Bytes := [0x61, 0x62, 0x63, 0x64]
    let s := waiting (asEvents (loadIn few)) 0 (blank 64 64)
    let u := waiting (asEvents (loadIn full)) 0 (blank 4 64)
    (s.phase = .idle ∧ few.length ≤ s.params.inCap ∧ s.pending = asEvents (loadIn few)) ∧
      u.phase = .idle ∧ full.length = u.params.inCap ∧ u.pending = asEvents (loadIn full) :=
  ⟨⟨by decide, by decide, rfl⟩, by decide, by decide, rfl⟩

theorem witness_CommandFrame :
    (commandWord .clear).isSome = true ∧ ∃ t, exec .clear shown = .next t ∧ t.phase = .idle :=
  ⟨rfl, of_result (by decide)⟩

theorem witness_CommandCompletion :
    (commandWord .encode).isSome = true ∧ (commandWord .decode).isSome = true ∧
      (commandWord .clear).isSome = true ∧ (commandWord (.illegal 7)).isSome = true := by decide

/-- `ab`, whose artifact fills an OUT of 28 bytes. -/
theorem witness_EncodeSucceeds :
    let s := holding 64 28 textAb
    0 < s.inLen.toNat ∧ s.inLen.toNat ≤ s.params.inCap ∧
      (encodeText s.input).artifact.length ≤ s.params.outCap := by
  have hi : (holding 64 28 textAb).input = textAb := by decide
  refine ⟨by decide, by decide, ?_⟩
  rw [hi, test_encode_ab.1]; decide

/-- IN_LEN one above IN_CAP, IN_LEN 0, and an OUT one word too small. -/
theorem witness_EncodeErrorsInOrder :
    let s := { blank 64 64 with inLen := 65 }
    let u := holding 64 24 textAb
    s.params.inCap < s.inLen.toNat ∧ (blank 64 64).inLen.toNat = 0 ∧ 0 < u.inLen.toNat ∧
      u.inLen.toNat ≤ u.params.inCap ∧
      u.params.outCap < (encodeText u.input).artifact.length := by
  have hi : (holding 64 24 textAb).input = textAb := by decide
  refine ⟨by decide, by decide, by decide, by decide, ?_⟩
  rw [hi, test_encode_ab.1]; decide

/-- Artifact(`ab`), and an artifact of no symbol. -/
theorem witness_DecodeSucceeds :
    let s := holding 28 4 artifactAb
    let u := holding 28 4 artifactNone
    (s.inLen.toNat ≤ s.params.inCap ∧
        parseHeader s.input = .ok ⟨[(0x61, [false]), (0x62, [true])], 6, 27, [0x40]⟩ ∧
        decodeBits s.params.outCap [(0x61, [false]), (0x62, [true])] (unpack [0x40] 6) =
          .ok textAb) ∧
      u.inLen.toNat ≤ u.params.inCap ∧ parseHeader u.input = .ok ⟨[], 0, 9, []⟩ ∧
      decodeBits u.params.outCap [] (unpack [] 0) = .ok [] :=
  ⟨⟨by decide, rfl, rfl⟩, by decide, rfl, rfl⟩

/-- IN_LEN one above IN_CAP, V-DEC-E23, and a payload byte no code begins. -/
theorem witness_DecodeErrorsInOrder :
    let s := { blank 64 64 with inLen := 65 }
    let u := holding 64 64 artifactBadBit
    let v := holding 64 64 (artifactNone ++ [0x61])
    s.params.inCap < s.inLen.toNat ∧
      (u.inLen.toNat ≤ u.params.inCap ∧ parseHeader u.input = .error ⟨.invalidBit, 5⟩) ∧
      v.inLen.toNat ≤ v.params.inCap ∧ parseHeader v.input = .ok ⟨[], 0, 9, [0x61]⟩ ∧
      decodeBits v.params.outCap [] (unpack [0x61] 0) = .error ⟨.truncatedStream, 0⟩ :=
  ⟨by decide, ⟨by decide, rfl⟩, by decide, rfl, rfl⟩

/-- The state after a successful ENCODE of `ab`. -/
def encodedAb : State :=
  ((accepted 1 (holding 64 28 textAb)).storeEncoding (encodeText textAb)).succeed

theorem encodes_ab : exec .encode (accepted 1 (holding 64 28 textAb)) = .next encodedAb := by
  have hi : (accepted 1 (holding 64 28 textAb)).input = textAb := by decide
  have h : encodeResult (accepted 1 (holding 64 28 textAb)) = .ok (encodeText textAb) := by
    rw [encodeResult_ok_iff, hi, test_encode_ab.1]
    exact ⟨by decide, by decide, by decide, rfl⟩
  rw [exec, execEncode, h, encodedAb]

theorem witness_StatusAfterCommands :
    ((accepted 1 (holding 64 28 textAb)).status = acceptStatus 1 ∧
        exec .encode (accepted 1 (holding 64 28 textAb)) = .next encodedAb ∧ encodedAb.error = 0) ∧
      ((accepted 2 (holding 64 64 artifactNone)).status = acceptStatus 2 ∧
        ∃ t, exec .decode (accepted 2 (holding 64 64 artifactNone)) = .next t ∧ t.error = 0) ∧
      ((accepted 3 (blank 64 64)).status = acceptStatus 3 ∧
        ∃ t, exec .clear (accepted 3 (blank 64 64)) = .next t ∧ t.error = 0) ∧
      (commandWord (.illegal 0x101)).isSome = true ∧
      (accepted 0x101 (blank 64 64)).status = acceptStatus 0x101 ∧
      ∃ t, exec (.illegal 0x101) (accepted 0x101 (blank 64 64)) = .next t ∧ decide (t.error ≠ 0) = true :=
  ⟨⟨rfl, encodes_ab, rfl⟩, ⟨rfl, of_result (by decide +kernel)⟩, ⟨rfl, of_result (by decide)⟩, rfl,
    rfl, of_result (by decide)⟩

/-- Two states that differ in OUT and in their unused IN bytes. -/
theorem witness_ResultsDependOnInputAlone :
    let s := accepted 1 (holding 64 28 textAb)
    let u := { s with inBuf := Memory.writeBytes [] 0 [0x61, 0x62, 0x63], outBuf := [(5, 0x78)] }
    (commandWord .clear).isSome = true ∧ s.params = u.params ∧ s.status = u.status ∧
      s.inLen = u.inLen ∧ (∀ k, k < s.inLen.toNat → s.inByte k = u.inByte k) ∧
      (∃ t, exec .clear s = .next t ∧ t.error = 0) ∧ ∃ t, exec .clear u = .next t ∧ t.error = 0 :=
  ⟨rfl, rfl, rfl, rfl, by decide, of_result (by decide), of_result (by decide)⟩

/-- The longest text a block can hold. -/
theorem witness_FrequenciesCountTheText : (List.replicate (2 ^ 20) (0x61 : Byte)).length ≤ 2 ^ 20 := by
  rw [List.length_replicate]

/-- V-ENC-4's leaves have equal frequencies: the lower index is selected first. One index is too few. -/
theorem witness_SelectionTakesTheLowest :
    [1, 0].Nodup ∧ [1].Nodup ∧
      selectTwo [Node.ofSymbol 1 0x61, Node.ofSymbol 1 0x62] [1, 0] = some (0, 1) ∧
      selectTwo [Node.ofSymbol 1 0x61, Node.ofSymbol 1 0x62] [1] = none := by decide

theorem witness_TreeSizes : ([0x61] : Bytes) ≠ [] ∧ ([0x61] : Bytes).length ≤ 2 ^ 20 ∧
    textAb ≠ [] ∧ textAb.length ≤ 2 ^ 20 := by decide

theorem symbols_ab : distinctSymbols textAb = [0x61, 0x62] := by decide +kernel

/-- The tree of `ab` has an internal node, two indices besides its root, and codes. -/
theorem witness_TreeShape :
    textAb ≠ [] ∧ textAb.length ≤ 2 ^ 20 ∧ 2 ≤ (distinctSymbols textAb).length ∧
      0 < (distinctSymbols textAb).length - 1 ∧
      ∃ tree, buildTree (frequencyTable textAb) = tree ∧ tree.arena.length = 3 ∧
        (tree.arena.map (·.leaf)) = [true, true, false] ∧ tree.root = 2 ∧
        codeList tree = [(0x61, [false]), (0x62, [true])] := by
  have hc := test_encode_ab.2.2.2.1
  have ht := test_encode_ab.2.2.2.2
  simp only [encodeText] at hc ht
  rw [symbols_ab]
  refine ⟨by decide, by decide, by decide, by decide, _, ht, rfl, rfl, rfl, ?_⟩
  rw [← ht, hc]

theorem witness_SingleSymbolCode : 0 < 1 ∧ 1 ≤ 2 ^ 20 ∧ 0 < 2 ^ 20 ∧ 2 ^ 20 ≤ 2 ^ 20 := by decide

theorem witness_CodeTableGuarantees :
    textAb ≠ [] ∧ textAb.length ≤ 2 ^ 20 ∧ 2 ≤ (distinctSymbols textAb).length ∧
      (0x62, [true]) ∈ (encodeText textAb).codes := by
  rw [symbols_ab, test_encode_ab.2.2.2.1]; decide

theorem witness_CodeTableIsComplete :
    textAb.length ≤ 2 ^ 20 ∧ ∃ a b, a ∈ textAb ∧ b ∈ textAb ∧ a ≠ b :=
  ⟨by decide, 0x61, 0x62, by decide, by decide, by decide⟩

/-- V-PK-3: nine bits fill two bytes. -/
theorem witness_PackPlacesBits :
    pack (List.replicate 9 true) = [0xFF, 0x80] ∧ 15 < 8 * (pack (List.replicate 9 true)).length := by
  decide

/-- V-PK-4 and V-PK-5: the same bits, other filler. -/
theorem witness_FillerBitsAreIgnored :
    7 ≤ 8 ∧ (0x80#8 >>> 7) = (0xFF#8 >>> 7) ∧ 8 ≤ 8 ∧ (0x00#8 >>> 8) = (0xFF#8 >>> 8) ∧
      unpack ([0xFF] ++ [0xFF]) 7 = List.replicate 9 true := by decide

theorem witness_HeaderLength : textAb ≠ [] ∧ textAb.length ≤ 2 ^ 20 ∧ 7 ≤ 7 := by decide

theorem witness_ParserErrors :
    artifactBadBit.length ≤ 2 ^ 20 ∧ parseHeader artifactBadBit = .error ⟨.invalidBit, 5⟩ ∧
      prefixFree tableBanana = true ∧ codeLengthsLegal tableBanana = true :=
  ⟨by decide, rfl, by decide, by decide⟩

/-- Operands at the edges of each clause of ParserErrors: `EN` at the end (V-DEC-E20), a cut in the middle of
` --`, the longest code, a separator whose last byte is missing, a code that extends another, a digit that
is missing, ` END` cut after its first byte, and pads of 8 and of 7 with no payload. -/
theorem witness_ParserErrors_clauses :
    ((0x45#8 :: [0x4E#8]).take 3 ≠ endText ∧ differsAt dashesText [0x4E] 0) ∧
      ((0x61#8 :: [0x20#8, 0x2D#8]).take 3 ≠ endText ∧ differsAt dashesText [0x20, 0x2D] 2) ∧
      (List.replicate 255 true).length ≤ 255 ∧ 1 ≤ (List.replicate 255 true).length ∧
      ((0x78#8) ≠ 0x30#8 ∧ (0x78#8) ≠ 0x31#8 ∧ (0x78#8) ≠ 0x20#8) ∧
      differsAt separatorText [0x20, 0x4E, 0x78] 3 ∧ differsAt separatorText [0x20, 0x79] 1 ∧
      prefixFree (tableBanana ++ [(0x63, [false, true])]) = false ∧
      prefixFree (tableBanana ++ [(0x61, [true, true, true])]) = false ∧
      ([] : Bytes).head? ≠ some 0x20#8 ∧ noDigitFirst [] ∧ noDigitFirst [0x78] ∧
      ([0x30, 0x38] : Bytes).all isDigit = true ∧ differsAt (0x20#8 :: endText) [0x20] 1 ∧
      noDigitFirst [0x20] ∧ decimalValue [0x30, 0x38] = 8 ∧ decimalValue [0x37] = 7 ∧
      8 * ([] : Bytes).length < decimalValue [0x37] := by
  have none_first : noDigitFirst [] := fun _ h => nomatch h
  have one_first : ∀ x, isDigit x = false → noDigitFirst [x] := by
    intro x h y hy; cases hy; exact h
  simp only [differsAt]
  and_intros <;> first
    | exact none_first
    | exact one_first _ (by decide)
    | exact Nat.le_of_eq List.length_replicate
    | (rw [List.length_replicate]; decide)
    | decide

theorem witness_HeaderRoundTrip :
    ([0x61] : Bytes) ≠ [] ∧ ([0x61] : Bytes).length ≤ 2 ^ 20 ∧ 7 ≤ 7 ∧
      7 ≤ 8 * ([0x00] : Bytes).length ∧ 0 ≤ 8 * ([] : Bytes).length := by decide

/-- `a`, `n`; a bit that begins b and n but is neither; one symbol more than OUT holds. -/
theorem witness_DecoderOutcomes :
    prefixFree tableBanana = true ∧ codeLengthsLegal tableBanana = true ∧
      decodeBits 2 tableBanana [false, true, true] = .ok [0x61, 0x6E] ∧
      decodeBits 2 tableBanana [false, true] = .error ⟨.truncatedStream, 1⟩ ∧
      decodeBits 2 tableBanana [false, true, true, false] = .error ⟨.capacity, 3⟩ :=
  ⟨by decide, by decide, rfl, rfl, rfl⟩

theorem witness_DecodeOfConcatenation :
    prefixFree tableBanana = true ∧ codeLengthsLegal tableBanana = true ∧
      (∀ b, b ∈ ([0x61, 0x6E] : Bytes) → ∃ c, (b, c) ∈ tableBanana) ∧
      ([0x61, 0x6E] : Bytes).length ≤ 2 := by
  refine ⟨by decide, by decide, ?_, by decide⟩
  intro b hb
  simp only [List.mem_cons, List.not_mem_nil, or_false] at hb
  rcases hb with rfl | rfl
  · exact ⟨[false], by decide⟩
  · exact ⟨[true, true], by decide⟩

theorem witness_TrieDecoderAgrees :
    prefixFree tableBanana = true ∧ codeLengthsLegal tableBanana = true ∧
      trieDecode 2 tableBanana [false, true] = .error ⟨.truncatedStream, 1⟩ :=
  ⟨by decide, by decide, rfl⟩

/-- ENCODE of `ab`, and its artifact in IN. -/
theorem witness_CodecRoundTrip :
    let s := accepted 1 (holding 64 28 textAb)
    let u := accepted 2 (holding 64 28 artifactAb)
    1 ≤ s.inLen.toNat ∧ s.inLen.toNat ≤ s.params.inCap ∧ s.inLen.toNat ≤ s.params.outCap ∧
      exec .encode s = .next encodedAb ∧ encodedAb.error = 0 ∧ u.params = s.params ∧
      encodedAb.outLen.toNat ≤ u.params.inCap ∧ u.inLen = encodedAb.outLen ∧
      ∀ j, j < encodedAb.outLen.toNat → encodedAb.outByte j = some (u.inByte j) := by
  have stored : ∀ (s : State) (e : Encoding), (s.storeEncoding e).succeed.outLen =
      BitVec.ofNat 32 e.artifact.length ∧
      (s.storeEncoding e).succeed.outBuf = Memory.writeBytes s.outBuf 0 e.artifact :=
    fun _ _ => ⟨rfl, rfl⟩
  have hl : encodedAb.outLen = 28 := by
    rw [encodedAb, (stored _ _).1, test_encode_ab.1]; decide
  have hb : encodedAb.outBuf = Memory.writeBytes (blank 64 28).outBuf 0 artifactAb := by
    rw [encodedAb, (stored _ _).2, test_encode_ab.1]; rfl
  have hs : statusOutValid encodedAb.status = true := by decide
  refine ⟨by decide, by decide, by decide, encodes_ab, rfl, rfl, ?_, ?_, ?_⟩
  · rw [hl]; decide
  · rw [hl]; decide
  · rw [hl]
    simp only [State.outByte, hs, hl, hb]
    decide +kernel

end Sys2Proof.Tests
end

section
/-! PROOFS. The laws that the statements of 10_state.md share: STATUS bit by bit, the ways a command or a
transaction ends, and the sizes of what ENCODE and DECODE compute. -/

namespace Sys2Proof.Machine

/-! ## STATUS (R36) -/

@[simp] theorem successStatus_eq (st : Word) : successStatus st = completeStatus st false := rfl

@[simp] theorem errorStatus_eq (st : Word) :
    errorStatus st = completeStatus (validStatus st false false false false) true := rfl

theorem setBit_getLsbD_of_ne (w : Word) {i j : Nat} (b : Bool) (h : j ≠ i) :
    (setBit w i b).getLsbD j = w.getLsbD j := by
  by_cases hj : j < 32
  · rw [BitVec.getLsbD_eq_getElem hj, BitVec.getLsbD_eq_getElem hj, setBit_getElem, if_neg h]
  · rw [BitVec.getLsbD_of_ge _ _ (by omega), BitVec.getLsbD_of_ge _ _ (by omega)]

/-- A bit below LAST_CMD is none of LAST_CMD's. -/
theorem statusLastCmd_setBit (w : Word) {i : Nat} (b : Bool) (h : i < 8) :
    statusLastCmd (setBit w i b) = statusLastCmd w := by
  refine BitVec.eq_of_getLsbD_eq fun j hj => ?_
  simp only [statusLastCmd, BitVec.getLsbD_extractLsb']
  rw [setBit_getLsbD_of_ne w b (by omega)]

@[simp] theorem statusLastCmd_valid (st : Word) (o f t c : Bool) :
    statusLastCmd (validStatus st o f t c) = statusLastCmd st := by
  simp [validStatus, statusLastCmd_setBit]

@[simp] theorem statusLastCmd_complete (st : Word) (e : Bool) :
    statusLastCmd (completeStatus st e) = statusLastCmd st := by
  simp [completeStatus, statusLastCmd_setBit]

/-- The reserved bits of STATUS, 7 and 16 to 31, are 0 (R36). -/
def reservedZero (st : Word) : Prop := st.getLsbD 7 = false ∧ st >>> 16 = 0

theorem reservedZero_setBit {w : Word} {i : Nat} (b : Bool) (hi : i < 7) (h : reservedZero w) :
    reservedZero (setBit w i b) := by
  refine ⟨by rw [setBit_getLsbD_of_ne w b (by omega)]; exact h.1, ?_⟩
  rw [← h.2]
  refine BitVec.eq_of_getLsbD_eq fun j _ => ?_
  simp only [BitVec.getLsbD_ushiftRight]
  exact setBit_getLsbD_of_ne w b (by omega)

theorem reservedZero_accept (w : Word) : reservedZero (acceptStatus w) := by
  refine ⟨by simp [acceptStatus_getElem], BitVec.eq_of_getLsbD_eq fun j _ => ?_⟩
  rw [BitVec.getLsbD_ushiftRight]
  by_cases hj : 16 + j < 32
  · rw [BitVec.getLsbD_eq_getElem hj, acceptStatus_getElem]; simp
  · simp [BitVec.getLsbD_of_ge _ (16 + j) (Nat.le_of_not_lt hj)]

theorem reservedZero_valid {st : Word} (o f t c : Bool) (h : reservedZero st) :
    reservedZero (validStatus st o f t c) :=
  reservedZero_setBit c (by omega) <| reservedZero_setBit t (by omega) <|
    reservedZero_setBit f (by omega) <| reservedZero_setBit o (by omega) h

theorem reservedZero_complete {st : Word} (e : Bool) (h : reservedZero st) :
    reservedZero (completeStatus st e) :=
  reservedZero_setBit e (by omega) <| reservedZero_setBit true (by omega) <|
    reservedZero_setBit false (by omega) h

/-! ## What a command does -/

/-- How a command's engine step ends (R148, R301): with an error, or with what the command itself stores. -/
inductive CommandEnds (s : State) : Instr → State → Prop where
  | failed (i : Instr) (e : CmdError) : CommandEnds s i (s.fail e)
  | encoded (e : Encoding) (h : encodeResult s = .ok e) :
    CommandEnds s .encode (s.storeEncoding e).succeed
  | decoded (d : Decoding) (h : decodeResult s = .ok d) :
    CommandEnds s .decode (s.storeDecoding d).succeed
  | cleared : CommandEnds s .clear s.clearResults.clearValid.succeed

/-- Every command answers a next state in which it has ended. -/
theorem execCommand_ends {i : Instr} (s : State) (hi : (commandWord i).isSome = true) :
    ∃ t, exec i s = .next t ∧ CommandEnds s i t := by
  cases i with
  | encode =>
    obtain ⟨e, hr, he⟩ | ⟨e, -, he⟩ := execEncode_cases s
    · exact ⟨_, he, .encoded e hr⟩
    · exact ⟨_, he, .failed _ e⟩
  | decode =>
    obtain ⟨d, hr, he⟩ | ⟨e, -, he⟩ := execDecode_cases s
    · exact ⟨_, he, .decoded d hr⟩
    · exact ⟨_, he, .failed _ e⟩
  | clear => exact ⟨_, rfl, .cleared⟩
  | illegal w => exact ⟨_, rfl, .failed _ (illegalCommandError w)⟩
  | read32 off => cases hi
  | write32 off data => cases hi

theorem commandEnds_of_exec {i : Instr} {s t : State} (hi : (commandWord i).isSome = true)
    (h : exec i s = .next t) : CommandEnds s i t := by
  obtain ⟨t', h', hends⟩ := execCommand_ends s hi
  rw [h] at h'
  cases h'
  exact hends

/-- The instruction of a command word is a command. -/
theorem commandWord_decodeCommand (w : Word) : (commandWord (decodeCommand w)).isSome = true := by
  unfold decodeCommand
  split_ifs <;> rfl

/-! ## What a transaction does -/

/-- What a host transaction changes: the answer, the fault mark and the count of draws alone, or also what
a WRITE32 to CMD, IN_LEN or IN writes (R140, R141). -/
inductive TxnEnds (s : State) : State → Prop where
  | answered (f : Bool) (r : Response) (n : Nat) :
    TxnEnds s { s with hostFault := f, response := some r, draws := n }
  | accepted (w : Word) : TxnEnds s (s.accept w).answerWrite
  | inLenStored (data : Word) : TxnEnds s ({ s with inLen := data } : State).answerWrite
  | inStored (k : Nat) (data : Word) (h : k + 4 ≤ s.params.inCap) :
    TxnEnds s (s.storeIn k data).answerWrite

theorem execRead32_ends (off : Offset) (s : State) :
    ∃ t, exec (.read32 off) s = .next t ∧ TxnEnds s t := by
  obtain ⟨he, -⟩ | ⟨r, -, -, he⟩ := execRead32_cases off s
  · exact ⟨_, he, .answered true _ _⟩
  · obtain ⟨d, n, hd⟩ := readRegion_frame s r
    exact ⟨_, he, hd ▸ .answered s.hostFault _ n⟩

theorem execWrite32_ends (off : Offset) (data : Word) (s : State) :
    ∃ t, exec (.write32 off data) s = .next t ∧ TxnEnds s t := by
  obtain ⟨he, -⟩ | ⟨r, hr, -, he⟩ := execWrite32_cases off data s
  · exact ⟨_, he, .answered true _ s.draws⟩
  · refine ⟨_, he, ?_⟩
    obtain ⟨-, hw⟩ | ⟨-, hw⟩ | ⟨k, rfl, hw⟩ | hw := writeRegion_cases s data r <;> rw [hw]
    · exact .accepted data
    · exact .inLenStored data
    · exact .inStored k data (region_in_bound _ _ _ hr)
    · exact .answered s.hostFault _ s.draws

theorem execTxn_ends (x : Txn) (s : State) : ∃ t, exec x.instr s = .next t ∧ TxnEnds s t := by
  cases x with
  | read32 off => exact execRead32_ends off s
  | write32 off data => exact execWrite32_ends off data s

/-! ## The sizes of ENCODE's results (R184, R196, R221) -/

theorem distinctCount_le (freq : Vector Word 256) : distinctCount freq ≤ 256 :=
  List.countP_le_length.trans_eq List.length_finRange

theorem leaves_length_le (freq : Vector Word 256) : (leaves freq).length ≤ 256 :=
  (List.length_filterMap_le _ _).trans_eq List.length_finRange

theorem padLength_le (n : Nat) : padLength n ≤ 7 := Nat.le_of_lt_succ (Nat.mod_lt _ (by omega))

/-- The selected indices are two of the collection (R192). -/
theorem selectTwo_mem {arena : List Node} {w : List Nat} {x y : Nat}
    (h : selectTwo arena w = some (x, y)) : x ∈ w ∧ y ∈ w.erase x := by
  unfold selectTwo at h
  split at h
  · cases h
  · next x' hx =>
    split at h
    · cases h
    · next y' hy =>
      cases h
      exact ⟨argmin_mem _ _ _ hx, argmin_mem _ _ _ hy⟩

/-- A merge takes two indices off the collection and puts one on (R194). -/
theorem length_merged {arena : List Node} {w : List Nat} {x y : Nat}
    (h : selectTwo arena w = some (x, y)) (k : Nat) :
    ((w.erase x).erase y ++ [k]).length + 1 = w.length := by
  obtain ⟨hx, hy⟩ := selectTwo_mem h
  have h1 := List.length_erase_add_one hx
  have h2 := List.length_erase_add_one hy
  simp only [List.length_append, List.length_singleton]
  omega

/-- The merge loop adds a node for each index it takes off the collection. -/
theorem mergeLoop_length (fuel : Nat) (arena : List Node) (w : List Nat) :
    (mergeLoop fuel arena w).1.length + (mergeLoop fuel arena w).2.length = arena.length + w.length := by
  induction fuel generalizing arena w with
  | zero => rfl
  | succ fuel ih =>
    rw [mergeLoop]
    split
    · rfl
    · next x y h =>
      have hm := length_merged h arena.length
      rw [ih, List.length_append, List.length_singleton]
      omega

/-- The merge loop never empties the collection. -/
theorem mergeLoop_ne_nil (fuel : Nat) (arena : List Node) {w : List Nat} (hw : w ≠ []) :
    (mergeLoop fuel arena w).2 ≠ [] := by
  induction fuel generalizing arena w with
  | zero => exact hw
  | succ fuel ih =>
    rw [mergeLoop]
    split
    · exact hw
    · exact ih _ (by simp)

/-- The collection holds indices of the arena. -/
theorem mergeLoop_mem_lt (fuel : Nat) (arena : List Node) {w : List Nat}
    (hw : ∀ i ∈ w, i < arena.length) :
    ∀ i ∈ (mergeLoop fuel arena w).2, i < (mergeLoop fuel arena w).1.length := by
  induction fuel generalizing arena w with
  | zero => exact hw
  | succ fuel ih =>
    rw [mergeLoop]
    split
    · exact hw
    · refine ih _ fun i hi => ?_
      rw [List.length_append, List.length_singleton]
      obtain hi | hi := List.mem_append.1 hi
      · exact Nat.lt_succ_of_lt (hw i (List.mem_of_mem_erase (List.mem_of_mem_erase hi)))
      · rw [List.mem_singleton.1 hi]; exact Nat.lt_succ_self _

/-- NODE_COUNT's range (R45). -/
theorem buildTree_arena_length_le (freq : Vector Word 256) :
    (buildTree freq).arena.length ≤ 511 := by
  have hn := leaves_length_le freq
  have hlen := mergeLoop_length (leaves freq).length (leaves freq) (List.range (leaves freq).length)
  have hne := mergeLoop_ne_nil (leaves freq).length (leaves freq)
    (w := List.range (leaves freq).length)
  rw [List.length_range] at hlen
  simp only [buildTree]
  by_cases h0 : (leaves freq).length = 0
  · omega
  · have := List.length_pos_iff.2 (hne (by simpa using h0))
    omega

/-- ROOT's range (R46): the root is an index of the arena, or 0. -/
theorem buildTree_root_le (freq : Vector Word 256) : (buildTree freq).root ≤ 510 := by
  have hlen := buildTree_arena_length_le freq
  have hlt := mergeLoop_mem_lt (leaves freq).length (leaves freq)
    (w := List.range (leaves freq).length) (by simp)
  simp only [buildTree] at hlen ⊢
  cases hw : (mergeLoop (leaves freq).length (leaves freq) (List.range (leaves freq).length)).2 with
  | nil => simp
  | cons i w =>
    have hi := hlt i (by simp [hw])
    simp only [List.headD_cons]
    omega

/-- An artifact that ENCODE stores fits OUT, and its registers are in range (R150). -/
theorem encodeResult_ok_bounds {s : State} {e : Encoding} (h : encodeResult s = .ok e) :
    e.artifact.length ≤ s.params.outCap ∧ e.pad ≤ 7 ∧ distinctCount e.freq ≤ 256 ∧
      e.tree.arena.length ≤ 511 ∧ e.tree.root ≤ 510 := by
  obtain ⟨-, -, hfit, rfl⟩ := (encodeResult_ok_iff s e).1 h
  exact ⟨hfit, padLength_le _, distinctCount_le _, buildTree_arena_length_le _, buildTree_root_le _⟩

/-! ## The sizes of DECODE's results (R151, R249, R270) -/

/-- A pair is inserted at the end, if no symbol repeats and no code conflicts (R246 to R248). -/
theorem insertPair_ok_iff (table table' : CodeList) (s : Byte) (c : Bits) (q : Nat) :
    insertPair table s c q = .ok table' ↔
      (∀ e ∈ table, e.1 ≠ s ∧ prefixConflict e.2 c = false) ∧ table' = table ++ [(s, c)] := by
  unfold insertPair
  split
  · next h =>
    obtain ⟨e, he, hes⟩ := List.any_eq_true.1 h
    simp only [reduceCtorEq, false_iff]
    exact fun hall => (hall.1 e he).1 (beq_iff_eq.1 hes)
  · next hs =>
    split
    · next h =>
      obtain ⟨e, he, hec⟩ := List.any_eq_true.1 h
      simp only [reduceCtorEq, false_iff]
      exact fun hall => by simp [(hall.1 e he).2] at hec
    · next hc =>
      rw [Except.ok.injEq, eq_comm, iff_and_self]
      simp only [List.any_eq_true, not_exists, not_and, Bool.not_eq_true, beq_iff_eq] at hs hc
      exact fun _ e he => ⟨hs e he, hc e he⟩

theorem readPair_ok {table table' : CodeList} {c c' : Cursor}
    (h : readPair table c = .ok (table', c')) :
    ∃ s code, insertPair table s code c.pos = .ok table' := by
  unfold readPair at h
  split at h
  · cases h
  · split at h
    · cases h
    · split at h
      · cases h
      · split at h
        · cases h
        · next hi => cases h; exact ⟨_, _, hi⟩

/-- No symbol stands twice in a table that was read (R247). -/
theorem readPairs_symbols_nodup {fuel : Nat} {table table' : CodeList} {c c' : Cursor}
    (ht : (table.map Prod.fst).Nodup) (h : readPairs fuel table c = .ok (table', c')) :
    (table'.map Prod.fst).Nodup := by
  induction fuel generalizing table c with
  | zero => cases h
  | succ fuel ih =>
    rw [readPairs] at h
    split at h
    · cases h; exact ht
    · split at h
      · cases h
      · next table1 c1 hp =>
        obtain ⟨s, code, hi⟩ := readPair_ok hp
        obtain ⟨hnew, rfl⟩ := (insertPair_ok_iff _ _ _ _ _).1 hi
        refine ih ?_ h
        rw [List.map_append, List.map_singleton, List.nodup_append]
        refine ⟨ht, List.nodup_singleton _, ?_⟩
        intro a ha b hb hab
        obtain ⟨e, he, rfl⟩ := List.mem_map.1 ha
        exact (hnew e he).1 (hab.trans (List.mem_singleton.1 hb))

/-- The pad is at most 7 (R249). -/
theorem readPad_ok_le {c c' : Cursor} {v : Nat} (h : readPad c = .ok (v, c')) : v ≤ 7 := by
  unfold readPad at h
  split at h
  · cases h
  · split at h
    · cases h
    · split at h
      · simp only at h
        split at h
        · cases h
        · split at h
          · cases h
          · next hv => cases h; exact Nat.le_of_not_lt hv
      · cases h

theorem parseHeader_ok {artifact : Bytes} {h : Header} (hp : parseHeader artifact = .ok h) :
    (h.table.map Prod.fst).Nodup ∧ h.pad ≤ 7 := by
  unfold parseHeader at hp
  split at hp
  · cases hp
  · next ht =>
    split at hp
    · cases hp
    · next hpad =>
      split at hp
      · cases hp
      · cases hp
        exact ⟨readPairs_symbols_nodup (table := []) List.nodup_nil ht, readPad_ok_le hpad⟩

/-- There are 256 symbols (R7), so no more pairs without a repeated one. -/
theorem length_le_of_symbols_nodup {table : CodeList} (h : (table.map Prod.fst).Nodup) :
    table.length ≤ 256 := by
  have hinj : Function.Injective (BitVec.toFin (w := 8)) := fun _ _ => BitVec.eq_of_toFin_eq
  simpa using (h.map hinj).length_le_card

/-- The decoder emits no more symbols than OUT holds (R270). -/
theorem decodeFrom_length_le {cap : Nat} {table : CodeList} {bits cand : Bits} {i start : Nat}
    {text text' : Bytes} (hl : text.length ≤ cap)
    (h : decodeFrom cap table bits i start cand text = .ok text') : text'.length ≤ cap := by
  induction bits generalizing i start cand text with
  | nil =>
    rw [decodeFrom] at h
    split at h
    · cases h; exact hl
    · cases h
  | cons b bs ih =>
    rw [decodeFrom] at h
    split at h
    · exact ih hl h
    · split at h
      · cases h
      · next hne => exact ih (by simp only [List.length_append, List.length_singleton]; omega) h

/-- A text that DECODE stores fits OUT, and its header's fields are in range (R151). -/
theorem decodeResult_ok_bounds {s : State} {d : Decoding} (h : decodeResult s = .ok d) :
    d.text.length ≤ s.params.outCap ∧ d.header.pad ≤ 7 ∧ d.header.table.length ≤ 256 := by
  unfold decodeResult at h
  split at h
  · cases h
  · obtain ⟨hh, -, ht⟩ := decodeArtifact_ok _ _ _ h
    obtain ⟨hsym, hpad⟩ := parseHeader_ok hh
    exact ⟨decodeFrom_length_le (Nat.zero_le _) ht, hpad, length_le_of_symbols_nodup hsym⟩

end Sys2Proof.Machine
end

section
/-! PROOFS. The invariant of the machine: each way a command or a transaction ends keeps it, so every step
does (10_state.md). -/

namespace Sys2Proof.Machine

theorem toNat_ofNat_le (n : Nat) : (BitVec.ofNat 32 n).toNat ≤ n := by
  rw [BitVec.toNat_ofNat]
  exact Nat.mod_le _ _

/-! ## The parts -/

theorem State.Inv.buffers {s : State} (h : s.Inv) : s.bufferInv := h.2.2.2

/-- In either phase the reserved bits of STATUS are 0. -/
theorem State.Inv.reserved {s : State} (h : s.Inv) : reservedZero s.status := by
  have hs := h.1
  unfold State.statusInv at hs
  split at hs
  · rw [hs]; exact reservedZero_accept _
  · obtain ⟨-, h7, h16, -⟩ := hs; exact ⟨h7, h16⟩

/-- After a success ERR and ERROR are 0 (R148). -/
theorem statusInv_succeed {s : State} (h : reservedZero s.status) : s.succeed.statusInv := by
  obtain ⟨h7, h16⟩ := reservedZero_complete false h
  exact ⟨statusBusy_complete _ _, h7, h16, by simp⟩

/-- The result registers at 0 are in range (R152, R301). -/
theorem registerInv_of_zero {t : State} (he : legalError t.error = true)
    (ht : t.clearResults = t) : t.registerInv := by
  rw [← ht]
  exact ⟨he, Nat.zero_le _, Nat.zero_le _, Nat.zero_le _, Nat.zero_le _, Nat.zero_le _⟩

/-- While OUT_VALID is 0, no OUT byte needs a value. -/
theorem bufferInv_of_unreadable {t : State} (hv : statusOutValid t.status = false)
    (hin : Memory.wf t.inBuf = true ∧ Memory.below t.inBuf t.params.inCap = true)
    (hout : Memory.wf t.outBuf = true ∧ Memory.below t.outBuf t.params.outCap = true) :
    t.bufferInv :=
  ⟨hin.1, hin.2, hout.1, hout.2, by simp [hv]⟩

/-- What a read may see of OUT after a byte string and its length are stored (R54). -/
theorem outByte_of_stored {t : State} {m : Memory} {bs : Bytes}
    (hout : t.outBuf = Memory.writeBytes m 0 bs) (hlen : t.outLen = BitVec.ofNat 32 bs.length)
    (j : Nat) :
    t.outByte j = if statusOutValid t.status ∧ j < t.outLen.toNat then bs[j]? else none := by
  unfold State.outByte
  split_ifs with h
  · have hj : j < bs.length := h.2.trans_le (hlen ▸ toNat_ofNat_le _)
    simp [hout, Memory.read_writeBytes, hj]
  · rfl

/-- A byte string within OUT_CAP, stored in OUT with its length in OUT_LEN, has every readable byte. -/
theorem bufferInv_of_stored {s t : State} (bs : Bytes) (h : s.bufferInv) (hp : t.params = s.params)
    (hin : t.inBuf = s.inBuf) (hout : t.outBuf = Memory.writeBytes s.outBuf 0 bs)
    (hlen : t.outLen = BitVec.ofNat 32 bs.length) (hcap : bs.length ≤ s.params.outCap) :
    t.bufferInv := by
  obtain ⟨hiw, hib, how, hob, -⟩ := h
  refine ⟨hin ▸ hiw, by rw [hin, hp]; exact hib, hout ▸ Memory.writeBytes_wf bs 0 how, ?_, ?_⟩
  · rw [hout, hp]; exact Memory.writeBytes_below bs hob (by omega)
  · intro hv j hj
    have hjl : j < bs.length := hj.trans_le (hlen ▸ toNat_ofNat_le _)
    rw [outByte_of_stored hout hlen, if_pos ⟨hv, hj⟩, List.getElem?_eq_getElem hjl]
    rfl

/-! ## Transactions and resets -/

/-- The invariant says nothing of the bus side and the model's own counters. -/
theorem State.Inv.withBusSide {s : State} (h : s.Inv) (f : Bool) (r : Option Response)
    (p : List Event) (k n : Nat) :
    ({ s with hostFault := f, response := r, pending := p, engineWait := k, draws := n } : State).Inv :=
  h

/-- Acceptance closes every window (R145). -/
theorem State.Inv.accept {s : State} (h : s.Inv) (w : Word) : (s.accept w).Inv := by
  obtain ⟨-, -, hreg, hiw, hib, how, hob, -⟩ := h
  exact ⟨rfl, by simp [State.validInv], hreg,
    bufferInv_of_unreadable (statusOutValid_accept w) ⟨hiw, hib⟩ ⟨how, hob⟩⟩

theorem State.Inv.withInLen {s : State} (h : s.Inv) (data : Word) :
    ({ s with inLen := data } : State).Inv := h

theorem State.Inv.storeIn {s : State} (h : s.Inv) {k : Nat} (data : Word)
    (hk : k + 4 ≤ s.params.inCap) : (s.storeIn k data).Inv := by
  obtain ⟨hst, hval, hreg, hiw, hib, hout⟩ := h
  exact ⟨hst, hval, hreg, Memory.writeBytes_wf _ k hiw, Memory.writeBytes_below _ hib hk, hout⟩

theorem State.Inv.answerWrite {s : State} (h : s.Inv) : s.answerWrite.Inv := h

theorem TxnEnds.inv {s t : State} (ht : TxnEnds s t) (h : s.Inv) : t.Inv := by
  cases ht with
  | answered f r n => exact h.withBusSide f (some r) s.pending s.engineWait n
  | accepted w => exact (h.accept w).answerWrite
  | inLenStored data => exact (h.withInLen data).answerWrite
  | inStored k data hk => exact (h.storeIn data hk).answerWrite

/-- R320's state meets the invariant. -/
theorem State.afterReset_inv (p : Params) (epoch draws : Nat) (es : List Event) :
    (State.afterReset p epoch draws es).Inv := by
  have hstatus : statusBusy 0 = false ∧ (0 : Word).getLsbD 7 = false ∧ (0 : Word) >>> 16 = 0 ∧
      (statusErr 0 = true ↔ (0 : Word) ≠ 0) := by decide
  have hvalid : statusOutValid 0 = statusCodeValid 0 ∧ statusFreqValid 0 = statusTreeValid 0 ∧
      (statusFreqValid 0 = true → statusOutValid 0 = true) ∧
      (statusErr 0 = true → statusOutValid 0 = false) := by decide
  have hclosed : statusOutValid 0 = false := by decide
  exact ⟨hstatus, hvalid, registerInv_of_zero rfl rfl,
    bufferInv_of_unreadable hclosed ⟨rfl, rfl⟩ ⟨rfl, rfl⟩⟩

/-! ## Commands -/

/-- Every error has a code of R290, and none of them is 0. -/
theorem errorCode_legal (k : ErrorKind) :
    legalError (k.code.setWidth 32) = true ∧ k.code.setWidth 32 ≠ 0#32 := by
  cases k <;> decide

theorem State.Inv.fail {s : State} (h : s.Inv) (e : CmdError) : (s.fail e).Inv := by
  obtain ⟨hlegal, hne⟩ := errorCode_legal e.kind
  obtain ⟨h7, h16⟩ :=
    reservedZero_complete true (reservedZero_valid false false false false h.reserved)
  obtain ⟨-, -, -, hiw, hib, -⟩ := h
  exact ⟨⟨statusBusy_complete _ _, h7, h16, iff_of_true (statusErr_complete _ _) hne⟩,
    by simp [State.validInv], registerInv_of_zero hlegal rfl,
    bufferInv_of_unreadable (by simp) ⟨hiw, hib⟩ ⟨rfl, rfl⟩⟩

theorem State.Inv.storeEncoding_succeed {s : State} {e : Encoding} (h : s.Inv)
    (he : encodeResult s = .ok e) : (s.storeEncoding e).succeed.Inv := by
  obtain ⟨hfit, hpad, hsym, hnode, hroot⟩ := encodeResult_ok_bounds he
  refine ⟨statusInv_succeed (reservedZero_valid _ _ _ _ h.reserved),
    by simp [State.validInv], ?_, bufferInv_of_stored _ h.buffers rfl rfl rfl rfl hfit⟩
  exact ⟨by simp [legalError], (toNat_ofNat_le _).trans hpad, (toNat_ofNat_le _).trans hsym,
    (toNat_ofNat_le _).trans hnode, (toNat_ofNat_le _).trans hroot, (toNat_ofNat_le _).trans hfit⟩

theorem State.Inv.storeDecoding_succeed {s : State} {d : Decoding} (h : s.Inv)
    (hd : decodeResult s = .ok d) : (s.storeDecoding d).succeed.Inv := by
  obtain ⟨htext, hpad, htable⟩ := decodeResult_ok_bounds hd
  refine ⟨statusInv_succeed (reservedZero_valid _ _ _ _ h.reserved),
    by simp [State.validInv], ?_, bufferInv_of_stored _ h.buffers rfl rfl rfl rfl htext⟩
  exact ⟨by simp [legalError], (toNat_ofNat_le _).trans hpad, (toNat_ofNat_le _).trans htable,
    by simp, by simp, (toNat_ofNat_le _).trans htext⟩

theorem State.Inv.clear_succeed {s : State} (h : s.Inv) :
    s.clearResults.clearValid.succeed.Inv := by
  have hr := h.reserved
  obtain ⟨-, -, -, hiw, hib, how, hob, -⟩ := h
  exact ⟨statusInv_succeed (reservedZero_valid _ _ _ _ hr), by simp [State.validInv],
    registerInv_of_zero rfl rfl, bufferInv_of_unreadable (by simp) ⟨hiw, hib⟩ ⟨how, hob⟩⟩

theorem CommandEnds.inv {i : Instr} {s t : State} (ht : CommandEnds s i t) (h : s.Inv) : t.Inv := by
  cases ht with
  | failed i e => exact h.fail e
  | encoded e he => exact h.storeEncoding_succeed he
  | decoded d hd => exact h.storeDecoding_succeed hd
  | cleared => exact h.clear_succeed

end Sys2Proof.Machine

namespace Sys2Proof.Proofs

open Sys2Proof.Machine

/-- Settles O11: each of the four things a step can be keeps the invariant. -/
theorem stepKeepsInvariant : Obligations.StepKeepsInvariant := by
  intro s h
  obtain ⟨-, -, he⟩ | ⟨w, -, -, he⟩ | ⟨x, es, k, -, -, he⟩ | ⟨es, k, -, -, he⟩ := step_cases s
  · exact ⟨s, he, h⟩
  · obtain ⟨t, ht, hends⟩ := execCommand_ends s (commandWord_decodeCommand w)
    exact ⟨t, he.trans ht, hends.inv h⟩
  · obtain ⟨t, ht, hends⟩ := execTxn_ends x { s with pending := es, engineWait := k }
    exact ⟨t, he.trans ht, hends.inv (h.withBusSide s.hostFault s.response es k s.draws)⟩
  · exact ⟨_, he, State.afterReset_inv _ _ _ _⟩

end Sys2Proof.Proofs
end

section
/-! PROOFS. What registers and windows read (10_state.md rules R34, R50 to R52, R55) and what a write to
IN_LEN stores (R39). -/

namespace Sys2Proof.Machine

/-! ## Entries of the tables -/

/-- A CODE_BITS word, from its most significant bit on, is the entry's code from bit `32 w` on (R51). -/
theorem CodeEntry.bitsWord_getLsbD (e : CodeEntry) (w : Fin 8) {t : Nat} (ht : t < 32) :
    (e.bitsWord w).getLsbD (31 - t) = e.bits.getD (32 * w.val + t) false := by
  have hmsb : (e.bitsWord w).getLsbD (31 - t) = (e.bitsWord w).getMsbD t := by
    simp [BitVec.getMsbD, ht]
  rw [hmsb, bitsWord, BitVec.getMsbD_ofFnBE, CodeEntry.bits]
  by_cases hc : 32 * w.val + t < e.clen.toNat <;> simp [ht, hc]

/-- A field that starts at bit `p` of a word, bit by bit. -/
theorem field_getLsbD {k : Nat} (x : BitVec k) (p : Nat) {j : Nat} (hj : j < 32) :
    (x.setWidth 32 <<< p).getLsbD j = (decide (p ≤ j) && x.getLsbD (j - p)) := by
  by_cases h : p ≤ j
  · simp [hj, h, Nat.not_lt.2 h]
  · simp [h, Nat.lt_of_not_le h]

/-- Word 1 of a node, bit by bit (R52). -/
theorem Node.word1_getLsbD (n : Node) {j : Nat} (hj : j < 32) :
    n.word1.getLsbD j =
      if j < 8 then n.sym.getLsbD j else if j < 17 then n.left.getLsbD (j - 8)
      else if j < 26 then n.right.getLsbD (j - 17) else if j < 30 then false
      else if j = 30 then n.leaf else n.valid := by
  have hfields : n.word1.getLsbD j =
      (decide (31 ≤ j) && (BitVec.ofBool n.valid).getLsbD (j - 31) ||
        decide (30 ≤ j) && (BitVec.ofBool n.leaf).getLsbD (j - 30) ||
        decide (17 ≤ j) && n.right.getLsbD (j - 17) || decide (8 ≤ j) && n.left.getLsbD (j - 8) ||
        n.sym.getLsbD j) := by
    simp only [word1, BitVec.getLsbD_or, field_getLsbD _ _ hj, BitVec.getLsbD_setWidth, hj,
      decide_true, Bool.true_and]
  have above : ∀ {k : Nat} (x : BitVec k) (p : Nat), p + k ≤ j → x.getLsbD (j - p) = false :=
    fun x p h => BitVec.getLsbD_of_ge x _ (by omega)
  rw [hfields]
  split_ifs with h8 h17 h26 h30 heq
  · simp [show ¬ 31 ≤ j by omega, show ¬ 30 ≤ j by omega, show ¬ 17 ≤ j by omega,
      show ¬ 8 ≤ j by omega]
  · simp [show ¬ 31 ≤ j by omega, show ¬ 30 ≤ j by omega, show ¬ 17 ≤ j by omega,
      show 8 ≤ j by omega]
  · simp [show ¬ 31 ≤ j by omega, show ¬ 30 ≤ j by omega, show 17 ≤ j by omega,
      show 8 ≤ j by omega, above n.left 8 (by omega)]
  · simp [show ¬ 31 ≤ j by omega, show ¬ 30 ≤ j by omega, show 8 ≤ j by omega,
      above n.left 8 (by omega), above n.right 17 (by omega)]
  · simp [heq]
  · simp [show j = 31 by omega]

/-- A run of a word's bits is a field if each of them is the field's bit. -/
theorem extractLsb'_eq_of_bits {d : Word} {p k : Nat} {x : BitVec k}
    (h : ∀ j, j < k → d.getLsbD (p + j) = x.getLsbD j) : d.extractLsb' p k = x :=
  BitVec.eq_of_getLsbD_eq fun j hj => by
    rw [BitVec.getLsbD_extractLsb', h j hj, decide_eq_true hj, Bool.true_and]

/-- Each field of a node is where R52 puts it in word 1. -/
theorem Node.word1_fields (n : Node) :
    n.word1.getLsbD 31 = n.valid ∧ n.word1.getLsbD 30 = n.leaf ∧ n.word1.extractLsb' 26 4 = 0 ∧
      n.word1.extractLsb' 17 9 = n.right ∧ n.word1.extractLsb' 8 9 = n.left ∧
      n.word1.extractLsb' 0 8 = n.sym := by
  refine ⟨n.word1_getLsbD (by omega), n.word1_getLsbD (by omega), ?_, ?_, ?_, ?_⟩ <;>
    refine extractLsb'_eq_of_bits fun j hj => ?_ <;> rw [n.word1_getLsbD (by omega)]
  · simp [show ¬ 26 + j < 8 by omega, show ¬ 26 + j < 17 by omega, show 26 + j < 30 by omega]
  · simp [show ¬ 17 + j < 8 by omega, show 17 + j < 26 by omega]
  · simp [show 8 + j < 17 by omega]
  · simp [hj]

/-! ## Reads through a window's gate (R55) -/

variable {s : State} {off : Offset} {r : Region} {v : Bool} {w : Word}

/-- While the valid bit is 1, a read gives the window's word and changes nothing but the response. -/
theorem execRead32_open (hp : s.phase = .idle) (hr : region s.params off = some r)
    (hg : s.readRegion r = s.answerGated v w) (hv : v = true) :
    exec (.read32 off) s = .next { s with response := some ⟨.okay, some w⟩ } := by
  rw [execRead32_idle hp hr, hg, hv]
  rfl

/-- While the valid bit is 0, a read draws its data (R10). -/
theorem execRead32_closed (hp : s.phase = .idle) (hr : region s.params off = some r)
    (hg : s.readRegion r = s.answerGated v w) (hv : v = false) :
    ∃ d n, exec (.read32 off) s = .next { s with response := some ⟨.okay, some d⟩, draws := n } := by
  rw [execRead32_idle hp hr, hg, hv]
  exact ⟨_, _, rfl⟩

end Sys2Proof.Machine

namespace Sys2Proof.Proofs

open Sys2Proof.Machine

/-- Settles O19: every register is at its offset and reads its value. -/
theorem registerReads : Obligations.RegisterReads := by
  intro s hp
  have reads : ∀ r : Reg, exec (.read32 r.offset) s =
      .next { s with response := some ⟨.okay, some (s.reg r)⟩ } :=
    fun r => execRead32_idle hp (region_reg s.params r)
  exact ⟨reads .cmd, reads .status, reads .error, reads .errInfo, reads .inLen, reads .outLen,
    reads .padLen, reads .hdrLen, reads .symCount, reads .nodeCount, reads .root, reads .bitCount,
    reads .inCap, reads .outCap, reads .ident⟩

/-- Settles O26: IN_LEN is at offset 0x010, and a write there stores the word. -/
theorem inLenWriteStoresAnyWord : Obligations.InLenWriteStoresAnyWord :=
  fun s _ hp => execWrite32_idle hp (region_reg s.params .inLen)

/-- Settles O20: the FREQ window names the counter, and its gate is open. -/
theorem freqWindowReads : Obligations.FreqWindowReads :=
  fun s i off hp hv hoff => execRead32_open hp (region_freq s.params off i hoff) rfl hv

/-- Settles O21: the CODE windows name the entry, whose words hold its length and its code. -/
theorem codeWindowsRead : Obligations.CodeWindowsRead := fun s i hp hv =>
  ⟨fun off hoff => execRead32_open hp (region_codeLen s.params off i hoff) rfl hv,
    fun w off hoff => ⟨s.code[i].bitsWord w,
      execRead32_open hp (region_codeBits s.params off i w hoff) rfl hv,
      fun _ ht => s.code[i].bitsWord_getLsbD w ht⟩⟩

/-- Settles O22: the NODE window names the two words of the node, whose fields are in their places. -/
theorem nodeWindowReads : Obligations.NodeWindowReads := by
  intro s i hp hv
  have word1_at : ∀ off : Offset, off.toNat = 0x4004 + 8 * i.val →
      region s.params off = some (.node i true) :=
    fun off hoff => region_node s.params off i true (by rw [if_pos rfl]; omega)
  exact ⟨fun off hoff => execRead32_open hp (region_node s.params off i false hoff) rfl hv,
    fun off hoff => ⟨s.node[i].word1, execRead32_open hp (word1_at off hoff) rfl hv,
      s.node[i].word1_fields⟩⟩

/-- Settles O23: an aligned offset in a window names one of its words, and the window's gate is closed. -/
theorem invalidWindowReadSucceeds : Obligations.InvalidWindowReadSucceeds := by
  intro s off hp hal hwin
  obtain ⟨hlo, hhi, hv⟩ | ⟨⟨hlo, hhi⟩ | ⟨hlo, hhi⟩, hv⟩ | ⟨hlo, hhi, hv⟩ := hwin
  · exact execRead32_closed hp
      (region_freq s.params off ⟨(off.toNat - 0x1000) / 4, by omega⟩ (by simp only; omega)) rfl hv
  · exact execRead32_closed hp
      (region_codeLen s.params off ⟨(off.toNat - 0x1400) / 4, by omega⟩ (by simp only; omega)) rfl hv
  · exact execRead32_closed hp
      (region_codeBits s.params off ⟨(off.toNat - 0x2000) / 32, by omega⟩
        ⟨(off.toNat - 0x2000) % 32 / 4, by omega⟩ (by simp only; omega)) rfl hv
  · by_cases h4 : off.toNat % 8 = 4
    · exact execRead32_closed hp (region_node s.params off ⟨(off.toNat - 0x4000) / 8, by omega⟩ true
        (by simp only [if_true]; omega)) rfl hv
    · exact execRead32_closed hp (region_node s.params off ⟨(off.toNat - 0x4000) / 8, by omega⟩ false
        (by simp only [Bool.false_eq_true, if_false]; omega)) rfl hv

end Sys2Proof.Proofs
end

section
/-! PROOFS. What commands leave alone, the STATUS they leave, and what their results depend on
(10_state.md rules R30, R36, R39, R53, R57). -/

namespace Sys2Proof.Machine

/-! ## What a command and a transaction leave alone -/

/-- No command touches IN, IN_LEN, the capacities, the bus side or LAST_CMD. -/
theorem CommandEnds.frame {i : Instr} {s t : State} (h : CommandEnds s i t) :
    t.inBuf = s.inBuf ∧ t.epoch = s.epoch ∧ (∀ k, t.inByte k = s.inByte k) ∧ t.inLen = s.inLen ∧
      t.params = s.params ∧ t.hostFault = s.hostFault ∧ t.response = s.response ∧
      t.pending = s.pending ∧ t.engineWait = s.engineWait ∧ t.phase = .idle ∧
      statusLastCmd t.status = statusLastCmd s.status := by
  cases h <;> exact ⟨rfl, rfl, fun _ => rfl, rfl, rfl, rfl, rfl, rfl, rfl, rfl, by simp⟩

theorem TxnEnds.params_eq {s t : State} (h : TxnEnds s t) : t.params = s.params := by
  cases h <;> rfl

/-! ## STATUS after an error (R301) -/

/-- After an accepted command fails, LAST_CMD stays and DONE and ERR are 1. -/
theorem errorStatus_accept (w : Word) :
    errorStatus (acceptStatus w) = ((w &&& 0xFF#32) <<< 8) ||| 0x06#32 := by
  refine status_ext fun j hj => ?_
  rw [errorStatus_eq, BitVec.getLsbD_eq_getElem hj, completeStatus_getElem, validStatus_getElem,
    acceptStatus_getElem, BitVec.getLsbD_or, BitVec.getLsbD_shiftLeft, BitVec.getLsbD_and]
  -- what is left is one equation for each of the 32 bits
  interval_cases j <;> simp

/-! ## What the results depend on (R57) -/

theorem exec_encode_ok {s : State} {e : Encoding} (h : encodeResult s = .ok e) :
    exec .encode s = .next (s.storeEncoding e).succeed := by
  simp only [exec, execEncode, h]

theorem exec_encode_error {s : State} {e : CmdError} (h : encodeResult s = .error e) :
    exec .encode s = .next (s.fail e) := by
  simp only [exec, execEncode, h]

theorem exec_decode_ok {s : State} {d : Decoding} (h : decodeResult s = .ok d) :
    exec .decode s = .next (s.storeDecoding d).succeed := by
  simp only [exec, execDecode, h]

theorem exec_decode_error {s : State} {e : CmdError} (h : decodeResult s = .error e) :
    exec .decode s = .next (s.fail e) := by
  simp only [exec, execDecode, h]

section

variable {s u : State}

theorem input_congr (hl : s.inLen = u.inLen)
    (hb : ∀ k, k < s.inLen.toNat → s.inByte k = u.inByte k) : s.input = u.input := by
  unfold State.input
  rw [← hl]
  exact List.map_congr_left fun k hk => hb k (List.mem_range.1 hk)

theorem encodeResult_congr (hp : s.params = u.params) (hl : s.inLen = u.inLen)
    (hi : s.input = u.input) : encodeResult s = encodeResult u := by
  simp only [encodeResult, hp, hl, hi]

theorem decodeResult_congr (hp : s.params = u.params) (hl : s.inLen = u.inLen)
    (hi : s.input = u.input) : decodeResult s = decodeResult u := by
  simp only [decodeResult, hp, hl, hi]

/-- After an error nothing but the registers is shown (R301). -/
theorem sameShown_fail (hst : s.status = u.status) (e : CmdError) :
    sameShown (s.fail e) (u.fail e) :=
  ⟨congrArg errorStatus hst, rfl, rfl, rfl, rfl, rfl, rfl, rfl, rfl, rfl, by simp, by simp, by simp,
    fun j => by simp [State.outByte]⟩

/-- CLEAR closes every window (R152). -/
theorem sameShown_clear (hst : s.status = u.status) :
    sameShown s.clearResults.clearValid.succeed u.clearResults.clearValid.succeed :=
  ⟨by simp [hst], rfl, rfl, rfl, rfl, rfl, rfl, rfl, rfl, rfl, by simp, by simp, by simp,
    fun j => by simp [State.outByte]⟩

/-- ENCODE writes every table, and every OUT byte that it makes readable (R150). -/
theorem sameShown_storeEncoding (hst : s.status = u.status) (e : Encoding) :
    sameShown (s.storeEncoding e).succeed (u.storeEncoding e).succeed :=
  ⟨by simp [hst], rfl, rfl, rfl, rfl, rfl, rfl, rfl, rfl, rfl, fun _ => rfl, fun _ => rfl,
    fun _ => rfl, fun j => by
      rw [outByte_of_stored (m := s.outBuf) (bs := e.artifact) rfl rfl,
        outByte_of_stored (m := u.outBuf) (bs := e.artifact) rfl rfl]
      simp [hst]⟩

/-- DECODE writes CODE and every OUT byte that it makes readable, and closes the other windows (R151). -/
theorem sameShown_storeDecoding (hst : s.status = u.status) (d : Decoding) :
    sameShown (s.storeDecoding d).succeed (u.storeDecoding d).succeed :=
  ⟨by simp [hst], rfl, rfl, rfl, rfl, rfl, rfl, rfl, rfl, rfl, by simp, fun _ => rfl, by simp,
    fun j => by
      rw [outByte_of_stored (m := s.outBuf) (bs := d.text) rfl rfl,
        outByte_of_stored (m := u.outBuf) (bs := d.text) rfl rfl]
      simp [hst]⟩

end

end Sys2Proof.Machine

namespace Sys2Proof.Proofs

open Sys2Proof.Machine

/-- Settles O15: commands and transactions leave the capacities alone, and so does a reset. -/
theorem capacitiesNeverChange : Obligations.CapacitiesNeverChange := by
  intro s t h
  obtain ⟨-, -, he⟩ | ⟨w, -, -, he⟩ | ⟨x, es, k, -, -, he⟩ | ⟨es, k, -, -, he⟩ := step_cases s
  · rw [he] at h; cases h; rfl
  · have hends := commandEnds_of_exec (commandWord_decodeCommand w) (he.symm.trans h)
    obtain ⟨-, -, -, -, hp, -⟩ := hends.frame
    exact hp
  · obtain ⟨t', ht, hends⟩ := execTxn_ends x { s with pending := es, engineWait := k }
    rw [he, ht] at h; cases h
    exact hends.params_eq
  · rw [he] at h; cases h; rfl

/-- Settles O32: each way a command can end has this frame. -/
theorem commandFrame : Obligations.CommandFrame :=
  fun _ _ _ hi h => (commandEnds_of_exec hi h).frame

/-- Settles O40: a success sets the valid bits of its command and ERROR = 0, an error clears them and leaves
ERROR other than 0. -/
theorem statusAfterCommands : Obligations.StatusAfterCommands := by
  intro s t
  refine ⟨fun hst h h0 => ?_, fun hst h h0 => ?_, fun hst h => ?_, fun i w hi hst h hne => ?_⟩
  · cases commandEnds_of_exec rfl h with
    | failed _ e => exact absurd h0 (errorCode_legal e.kind).2
    | encoded e _ => simp only [State.succeed_status, State.storeEncoding_status, hst]; decide
  · cases commandEnds_of_exec rfl h with
    | failed _ e => exact absurd h0 (errorCode_legal e.kind).2
    | decoded d _ => simp only [State.succeed_status, State.storeDecoding_status, hst]; decide
  · cases h
    simp only [State.succeed_status, State.clearValid_status, State.clearResults_status, hst]
    decide
  · cases commandEnds_of_exec hi h with
    | failed _ e => rw [State.fail_status, hst, errorStatus_accept]
    | encoded _ _ => exact absurd rfl hne
    | decoded _ _ => exact absurd rfl hne
    | cleared => exact absurd rfl hne

/-- Settles O41: the command computes the same in both states, and shows nothing but what it computed. -/
theorem resultsDependOnInputAlone : Obligations.ResultsDependOnInputAlone := by
  intro i s u s' u' hi hp hst hl hb hs hu
  have hin := input_congr hl hb
  cases i with
  | encode =>
    have hr := encodeResult_congr hp hl hin
    cases hres : encodeResult s with
    | ok e =>
      cases (exec_encode_ok hres).symm.trans hs
      cases (exec_encode_ok (hr.symm.trans hres)).symm.trans hu
      exact sameShown_storeEncoding hst e
    | error e =>
      cases (exec_encode_error hres).symm.trans hs
      cases (exec_encode_error (hr.symm.trans hres)).symm.trans hu
      exact sameShown_fail hst e
  | decode =>
    have hr := decodeResult_congr hp hl hin
    cases hres : decodeResult s with
    | ok d =>
      cases (exec_decode_ok hres).symm.trans hs
      cases (exec_decode_ok (hr.symm.trans hres)).symm.trans hu
      exact sameShown_storeDecoding hst d
    | error e =>
      cases (exec_decode_error hres).symm.trans hs
      cases (exec_decode_error (hr.symm.trans hres)).symm.trans hu
      exact sameShown_fail hst e
  | clear => cases hs; cases hu; exact sameShown_clear hst
  | illegal w => cases hs; cases hu; exact sameShown_fail hst _
  | read32 off => cases hi
  | write32 off data => cases hi

end Sys2Proof.Proofs
end

section
/-! PROOFS. The byte lanes of the IN and OUT windows, what a READ32 and a WRITE32 there change, and how a step
comes to run the host's next transaction (20_memory.md rules R70, R73, R78, R81). -/

namespace Sys2Proof.Machine

/-! ## Byte lanes (R70) -/

/-- Bits `[8q+7 : 8q]` of a word put together from four bytes are byte `q`. -/
theorem extractLsb'_laneWord (f : Nat → Byte) {q : Nat} (hq : q < 4) :
    (laneWord (f 0) (f 1) (f 2) (f 3)).extractLsb' (8 * q) 8 = f q := by
  obtain ⟨h0, h1, h2, h3⟩ := lane_laneWord (f 0) (f 1) (f 2) (f 3)
  interval_cases q
  exacts [h0, h1, h2, h3]

/-- An OUT byte that is readable and has a value is its own lane, not a drawn one (R54). -/
theorem State.outLane_of_readable {s : State} {k q : Nat} {b : Byte}
    (hv : statusOutValid s.status = true) (hlen : k + q < s.outLen.toNat)
    (hb : Memory.read s.outBuf (k + q) = some b) : s.outLane k q = b := by
  rw [State.outLane, State.outByte, if_pos ⟨hv, hlen⟩, hb, Option.getD_some]

/-- The four bytes that a WRITE32 stores, read back by index. -/
theorem Memory.read_writeLanes (m : Memory) (k : Nat) (data : Word) (j : Nat) :
    Memory.read (Memory.writeBytes m k [lane data 0, lane data 1, lane data 2, lane data 3]) j =
      if k ≤ j ∧ j < k + 4 then some (lane data (j - k)) else Memory.read m j := by
  have hlanes : [lane data 0, lane data 1, lane data 2, lane data 3] =
      (List.range 4).map (lane data) := rfl
  rw [hlanes, Memory.read_writeBytes]
  simp

/-- `IN[j]` after a WRITE32 to the word at index `k`: the lane of `data` there, the old byte elsewhere. -/
theorem State.inByte_storeIn (s : State) (k : Nat) (data : Word) (j : Nat) :
    (s.storeIn k data).inByte j = if k ≤ j ∧ j < k + 4 then lane data (j - k) else s.inByte j := by
  rw [State.inByte, State.storeIn_inBuf, Memory.read_writeLanes, State.storeIn_epoch]
  split_ifs <;> rfl

/-! ## What the next step runs -/

section

variable {s : State} {k : Nat}

/-- A transaction at the front of the queue is run, if the block is IDLE or still waits for the engine. -/
theorem step_of_txn {t : Txn} {es : List Event} (hp : s.pending = .txn t :: es)
    (hk : s.phase = .idle ∧ k = s.engineWait ∨ s.phase ≠ .idle ∧ s.engineWait = k + 1) :
    step s = exec t.instr { s with pending := es, engineWait := k } := by
  obtain ⟨-, hnil, -⟩ | ⟨w, hw, hdue, -⟩ | ⟨t', es', k', hp', hk', he⟩ | ⟨es', k', hp', -, -⟩ :=
    step_cases s
  · simp [hp] at hnil
  · simp [hp, hw] at hdue hk
    omega
  · obtain ⟨rfl, rfl⟩ : t = t' ∧ es = es' := by simpa [hp] using hp'
    have hkk : k = k' := by
      by_cases hi : s.phase = .idle <;> simp [hi] at hk hk' <;> omega
    rw [he, hkk]
  · simp [hp] at hp'

/-- The engine step of the accepted word comes when its wait is over or nothing is pending (R146). -/
theorem step_of_engineDue {w : Word} (hw : s.phase = .busy w)
    (hdue : s.pending = [] ∨ s.engineWait = 0) : step s = exec (decodeCommand w) s := by
  obtain ⟨hi, -, -⟩ | ⟨w', hw', -, he⟩ | ⟨t, es, k, hp, hk, -⟩ | ⟨es, k, hp, hk, -⟩ := step_cases s
  · simp [hw] at hi
  · obtain rfl : w = w' := by simpa [hw] using hw'
    exact he
  · simp [hp, hw] at hdue hk
    omega
  · simp [hp, hw] at hdue hk
    omega

end

/-- A placed transaction is the next thing run, in the state it was placed in. -/
theorem step_placeTxn (t : Txn) (s : State) : step (placeTxn t s) = exec t.instr s := by
  unfold placeTxn
  split
  · next hi => exact step_of_txn rfl (.inl ⟨hi, rfl⟩)
  · next w hw => exact step_of_txn (k := s.engineWait) rfl (.inr ⟨by simp [hw], rfl⟩)

/-- A placed command word's engine step is due. -/
theorem step_placeCommand (w : Word) (s : State) :
    step (placeCommand w s) = exec (decodeCommand w) (placeCommand w s) :=
  step_of_engineDue rfl (.inr rfl)

end Sys2Proof.Machine

namespace Sys2Proof

/-! ## Decoded commands (R100, R102) -/

theorem commandWord_decodeCommand_eq (w : Word) : commandWord (decodeCommand w) = some w := by
  unfold decodeCommand
  split_ifs with h1 h2 h3
  · rw [h1]; rfl
  · rw [h2]; rfl
  · rw [h3]; rfl
  · rfl

theorem decodeReadText_ok {bs : Bytes} {i : Instr} (h : decodeReadText bs = .ok i) :
    ∃ off, i = .read32 off := by
  unfold decodeReadText at h
  split_ifs at h
  split at h <;> cases h
  exact ⟨_, rfl⟩

theorem decodeWriteText_ok {bs : Bytes} {i : Instr} (h : decodeWriteText bs = .ok i) :
    ∃ off data, i = .write32 off data := by
  unfold decodeWriteText at h
  split_ifs at h
  split at h <;> cases h
  exact ⟨_, _, rfl⟩

/-- Only four bytes decode to a command, by its command word. -/
theorem decode_ok_command {bs : Bytes} {i : Instr} {c : Word} (h : decode bs = .ok i)
    (hc : commandWord i = some c) : i = decodeCommand c := by
  unfold decode at h
  split at h
  · cases h
    rw [commandWord_decodeCommand_eq] at hc
    cases hc
    rfl
  · obtain ⟨off, rfl⟩ := decodeReadText_ok h
    cases hc
  · obtain ⟨off, data, rfl⟩ := decodeWriteText_ok h
    cases hc
  · cases h

theorem decodeTableWord_some {nbits w : Nat} {i : Instr} (h : decodeTableWord nbits w = some i) :
    decode (bytesOf (tableBytes nbits) w) = .ok i := by
  unfold decodeTableWord at h
  split at h <;> cases h
  assumption

end Sys2Proof

namespace Sys2Proof.Machine

/-! ## Placing a decoded instruction (log 2) -/

section

variable {s : State} {nbits w : Nat} {i : Instr} (h : decodeTableWord nbits w = some i)

include h

/-- A decoded command is placed as its command word. -/
theorem withFetchWord_command {c : Word} (hc : commandWord i = some c) :
    s.withFetchWord nbits w = placeCommand c s := by
  unfold State.withFetchWord placeTableWord
  rw [h]
  cases i <;> cases hc <;> rfl

/-- A decoded transaction is placed as the host's next one. -/
theorem withFetchWord_txn (hc : commandWord i = none) :
    ∃ t : Txn, t.instr = i ∧ s.withFetchWord nbits w = placeTxn t s := by
  unfold State.withFetchWord placeTableWord
  rw [h]
  cases i with
  | read32 off => exact ⟨.read32 off, rfl, rfl⟩
  | write32 off data => exact ⟨.write32 off data, rfl, rfl⟩
  | encode => cases hc
  | decode => cases hc
  | clear => cases hc
  | illegal c => cases hc

end

end Sys2Proof.Machine

namespace Sys2Proof.Proofs

open Sys2Proof.Machine

/-- Settles O18: a refused read sets the fault mark and draws its data; any other read keeps the frame of the
region it names. -/
theorem readHasNoSideEffect : Obligations.ReadHasNoSideEffect := by
  intro off s
  obtain ⟨he, -⟩ | ⟨r, -, -, he⟩ := execRead32_cases off s
  · have hmark : (s.hostFault || decide (Resp.slverr = Resp.slverr)) = true := Bool.or_true _
    exact ⟨.slverr, s.drawWord, s.draws + 4, by rw [he, hmark]; rfl⟩
  · obtain ⟨d, n, hd⟩ := readRegion_frame s r
    have hmark : (s.hostFault || decide (Resp.okay = Resp.slverr)) = s.hostFault := Bool.or_false _
    exact ⟨.okay, d, n, by rw [he, hd, hmark]⟩

/-- Settles O24: the offset names the word of the buffer at index `4 m`, which is put together from the four
bytes in their lanes. -/
theorem bufferReadLanes : Obligations.BufferReadLanes := by
  intro s m hp
  constructor
  · intro hm off hoff
    exact ⟨s.inWord (4 * m), execRead32_idle hp (region_in s.params off m hoff hm),
      fun q hq => extractLsb'_laneWord (fun q => s.inByte (4 * m + q)) hq⟩
  · intro hm off hoff
    refine ⟨_, _, execRead32_idle hp (region_out s.params off m hoff hm), fun q b hq hv hlen hb => ?_⟩
    rw [extractLsb'_laneWord (s.outLane (4 * m)) hq, State.outLane_of_readable hv hlen hb]

/-- Settles O25: the offset names the word of IN at index `4 m`, and storing there changes its four lanes. -/
theorem inWriteStoresFourBytes : Obligations.InWriteStoresFourBytes := by
  intro s m off data hp hm hoff
  refine ⟨(s.storeIn (4 * m) data).answerWrite, execWrite32_idle hp (region_in s.params off m hoff hm),
    fun q hq => ?_, fun k hk => ?_, Memory.writeBytes_wf _ _, rfl⟩
  · have hlane := s.inByte_storeIn (4 * m) data (4 * m + q)
    rwa [if_pos (by omega), Nat.add_sub_cancel_left] at hlane
  · have hrest := s.inByte_storeIn (4 * m) data k
    rwa [if_neg (by omega)] at hrest

/-- Settles O6: while IDLE the wait is kept, while BUSY one is taken off it. -/
theorem stepServesNextTransaction : Obligations.StepServesNextTransaction :=
  fun s _ _ hq => ⟨fun hp => step_of_txn hq (.inl ⟨hp, rfl⟩),
    fun w k hp hk => step_of_txn hq (.inr ⟨by simp [hp], hk⟩)⟩

/-- Settles O7: a command is placed with its engine step due, a transaction as the host's next one. -/
theorem stepRunsPlacedInstruction : Obligations.StepRunsPlacedInstruction := by
  intro s nbits w i h
  cases hc : commandWord i with
  | some c =>
    rw [withFetchWord_command h hc, step_placeCommand, ← decode_ok_command (decodeTableWord_some h) hc]
    rfl
  | none =>
    obtain ⟨t, rfl, ht⟩ := withFetchWord_txn (s := s) h hc
    rw [ht, step_placeTxn]

end Sys2Proof.Proofs
end

section
/-! PROOFS. Encodings are read back: command words byte by byte, transactions digit by digit
(30_encoding.md rules R100 to R105). -/

namespace Sys2Proof

/-! ## Bytes of a number, least significant first (log 12) -/

@[simp] theorem littleEndian_bytesOf (n v : Nat) : littleEndian (bytesOf n v) = v % 256 ^ n := by
  induction n generalizing v with
  | zero => simp [bytesOf, littleEndian, Nat.mod_one]
  | succ n ih =>
    rw [bytesOf, littleEndian, ih, Nat.pow_succ', Nat.mod_mul]
    rfl

@[simp] theorem bytesOf_littleEndian (bs : Bytes) : bytesOf bs.length (littleEndian bs) = bs := by
  induction bs with
  | nil => rfl
  | cons b bs ih =>
    have hb := b.isLt
    have hlow : BitVec.ofNat 8 (b.toNat + 256 * littleEndian bs) = b :=
      BitVec.eq_of_toNat_eq (by rw [BitVec.toNat_ofNat]; omega)
    have hhigh : (b.toNat + 256 * littleEndian bs) / 256 = littleEndian bs := by omega
    rw [List.length_cons, littleEndian, bytesOf, hlow, hhigh, ih]

theorem littleEndian_lt (bs : Bytes) : littleEndian bs < 256 ^ bs.length := by
  rw [← bytesOf_littleEndian bs, littleEndian_bytesOf, bytesOf_littleEndian]
  exact Nat.mod_lt _ (by positivity)

/-! ## Commands (R100, R102) -/

theorem decodeCommand_wf (w : Word) : (decodeCommand w).wf = true := by
  unfold decodeCommand
  split_ifs with h1 h2 h3
  · rfl
  · rfl
  · rfl
  · simpa [Instr.wf, legalCommands] using ⟨h1, h2, h3⟩

/-- A well-formed command is the one its word stands for. -/
theorem eq_decodeCommand_of_commandWord {i : Instr} {w : Word} (hwf : i.wf = true)
    (hw : commandWord i = some w) : i = decodeCommand w := by
  cases i with
  | encode => cases hw; rfl
  | decode => cases hw; rfl
  | clear => cases hw; rfl
  | illegal v =>
    cases hw
    obtain ⟨h1, h2, h3⟩ : w ≠ 1 ∧ w ≠ 2 ∧ w ≠ 3 := by simpa [Instr.wf, legalCommands] using hwf
    unfold decodeCommand
    rw [if_neg h1, if_neg h2, if_neg h3]
  | read32 off => cases hw
  | write32 off data => cases hw

theorem encode_of_commandWord {i : Instr} {w : Word} (hw : commandWord i = some w) :
    encode i = bytesOf 4 w.toNat := by
  cases i <;> cases hw <;> rfl

theorem decode_of_length_four {bs : Bytes} (h : bs.length = 4) :
    decode bs = .ok (decodeCommand (BitVec.ofNat 32 (littleEndian bs))) := by
  simp only [decode, h]

theorem decode_bytesOf_four (w : Word) : decode (bytesOf 4 w.toNat) = .ok (decodeCommand w) := by
  rw [decode_of_length_four (Laws.bytesOf_length _ _), littleEndian_bytesOf,
    Nat.mod_eq_of_lt (show w.toNat < 256 ^ 4 from w.isLt), BitVec.ofNat_toNat, BitVec.setWidth_eq]

/-! ## Hexadecimal digits (R105) -/

theorem hexValue_hexDigit {d : Nat} (h : d < 16) : hexValue (hexDigit d) = some d := by
  interval_cases d <;> rfl

theorem hexNumber_append_digit (acc : Nat) (ds : Bytes) {d : Nat} (h : d < 16) :
    hexNumber acc (ds ++ [hexDigit d]) = (hexNumber acc ds).map (16 * · + d) := by
  induction ds generalizing acc with
  | nil => simp [hexNumber, hexValue_hexDigit h]
  | cons b ds ih =>
    rw [List.cons_append, hexNumber, hexNumber]
    cases hexValue b with
    | none => rfl
    | some v => exact ih _

theorem hexNumber_hexText (n v : Nat) : hexNumber 0 (hexText n v) = some (v % 16 ^ n) := by
  induction n generalizing v with
  | zero => simp [hexText, hexNumber, Nat.mod_one]
  | succ n ih =>
    rw [hexText, hexNumber_append_digit _ _ (Nat.mod_lt _ (by omega)), ih, Option.map_some,
      Nat.pow_succ', Nat.mod_mul, Nat.add_comm]

theorem decodeOffset_hexText (off : Offset) : decodeOffset (hexText 6 off.toNat) = .ok off := by
  have hlt := off.isLt
  rw [decodeOffset, hexNumber_hexText, Nat.mod_eq_of_lt (by omega)]
  simp [hlt]

theorem decodeData_hexText (data : Word) : decodeData (hexText 8 data.toNat) = .ok data := by
  rw [decodeData, hexNumber_hexText, Nat.mod_eq_of_lt (show data.toNat < 16 ^ 8 from data.isLt)]
  simp

/-! ## Transactions (R104, R105) -/

theorem decodeReadText_encode (off : Offset) :
    decodeReadText (encode (.read32 off)) = .ok (.read32 off) := by
  simp [decodeReadText, encode, decodeOffset_hexText]

theorem decodeWriteText_encode (off : Offset) (data : Word) :
    decodeWriteText (encode (.write32 off data)) = .ok (.write32 off data) := by
  have hlen : (hexText 6 off.toNat).length = 6 := Laws.hexText_length _ _
  have htake : (hexText 6 off.toNat ++ 0x3A#8 :: hexText 8 data.toNat).take 6 = hexText 6 off.toNat :=
    List.take_left' hlen
  have hdrop : (hexText 6 off.toNat ++ 0x3A#8 :: hexText 8 data.toNat).drop 7 = hexText 8 data.toNat := by
    rw [← List.drop_drop (i := 1) (j := 6), List.drop_left' hlen, List.drop_one, List.tail_cons]
  have hcolon : (hexText 6 off.toNat ++ 0x3A#8 :: hexText 8 data.toNat)[6]? = some 0x3A#8 := by
    rw [List.getElem?_append_right hlen.le, hlen]; rfl
  simp [decodeWriteText, encode, htake, hdrop, hcolon, decodeOffset_hexText, decodeData_hexText]

/-- A byte string that decodes is a command's four bytes, or a transaction's text of its own length. -/
theorem decode_ok_cases {bs : Bytes} {i : Instr} (h : decode bs = .ok i) :
    (bs.length = 4 ∧ ∃ w, i = decodeCommand w) ∨ (bs.length = 8 ∧ ∃ off, i = .read32 off) ∨
      (bs.length = 17 ∧ ∃ off data, i = .write32 off data) := by
  unfold decode at h
  split at h
  · next h4 => cases h; exact .inl ⟨h4, _, rfl⟩
  · next h8 => exact .inr (.inl ⟨h8, decodeReadText_ok h⟩)
  · next h17 => exact .inr (.inr ⟨h17, decodeWriteText_ok h⟩)
  · cases h

end Sys2Proof

namespace Sys2Proof.Proofs

/-- Settles O1: a command by its word, a transaction by its digits. -/
theorem decodeOfEncode : Obligations.DecodeOfEncode := by
  intro i hwf
  have command : ∀ w, commandWord i = some w → decode (encode i) = .ok i := fun w hw => by
    rw [encode_of_commandWord hw, decode_bytesOf_four, ← eq_decodeCommand_of_commandWord hwf hw]
  cases i with
  | encode => exact command _ rfl
  | decode => exact command _ rfl
  | clear => exact command _ rfl
  | illegal w => exact command w rfl
  | read32 off => exact decodeReadText_encode off
  | write32 off data => exact decodeWriteText_encode off data

/-- Settles O2: four bytes are the bytes of their number, whose instruction is the only one with that word. -/
theorem everyCommandWordDecodes : Obligations.EveryCommandWordDecodes := by
  intro bs hbs
  set w : Word := BitVec.ofNat 32 (littleEndian bs) with hw
  have hword := commandWord_decodeCommand_eq w
  have hbytes : bytesOf 4 w.toNat = bs := by
    have hlt := littleEndian_lt bs
    rw [hbs] at hlt
    rw [hw, BitVec.toNat_ofNat, Nat.mod_eq_of_lt (show _ < 2 ^ 32 from hlt), ← hbs, bytesOf_littleEndian]
  exact ⟨decodeCommand w, decodeCommand_wf w, hword, decode_of_length_four hbs,
    (encode_of_commandWord hword).trans hbytes, fun j hj => eq_decodeCommand_of_commandWord hj⟩

/-- Settles O3: what is accepted is well-formed, and encoded in the form it was read from. -/
theorem decodedIsWellFormed : Obligations.DecodedIsWellFormed := by
  intro bs i h
  have shape : i.wf = true ∧ (encode i).length = bs.length := by
    obtain ⟨hlen, w, rfl⟩ | ⟨hlen, off, rfl⟩ | ⟨hlen, off, data, rfl⟩ := decode_ok_cases h
    · rw [hlen, encode_of_commandWord (commandWord_decodeCommand_eq w)]
      exact ⟨decodeCommand_wf w, Laws.bytesOf_length _ _⟩
    · exact ⟨rfl, hlen ▸ rfl⟩
    · exact ⟨rfl, hlen ▸ rfl⟩
  exact ⟨shape.1, shape.2, decodeOfEncode i shape.1⟩

/-- Settles O4: the decoder, run on each of the six encodings. -/
theorem wordsOfTheSpecDecode : Obligations.WordsOfTheSpecDecode :=
  ⟨rfl, rfl, rfl, rfl, rfl, rfl⟩

end Sys2Proof.Proofs
end

section
/-! PROOFS. LOADIN: a run of its transactions fills IN word by word (30_encoding.md rule R106). -/

namespace Sys2Proof.Machine

/-! ## Runs -/

/-- One more step than a run that did not stop. -/
theorem core_run_succ (M : Host.Core) {n : Nat} {s t : M.State} (h : M.run n s = .next t) :
    M.run (n + 1) s = M.step t := by
  induction n generalizing s with
  | zero =>
    cases h
    simp only [Host.Core.run]
    cases M.step t <;> rfl
  | succ n ih =>
    rw [Host.Core.run] at h ⊢
    cases hs : M.step s with
    | next s' => rw [hs] at h; exact ih h
    | fault r => rw [hs] at h; cases h
    | refused r => rw [hs] at h; cases h

/-! ## One word of IN -/

/-- Byte `q` of word `m` of a byte string, bytes beyond its end being 0 (R106). -/
theorem lane_wordOfBytes (bs : Bytes) (m : Nat) {q : Nat} (hq : q < 4) :
    lane (wordOfBytes bs m) q = bs.getD (4 * m + q) 0 :=
  extractLsb'_laneWord (fun q => bs.getD (4 * m + q) 0) hq

/-- A WRITE32 of word `m` of a byte string to its place in IN. -/
def wordTxn (bs : Bytes) (m : Nat) : Txn :=
  .write32 (BitVec.ofNat 22 (0x100000 + 4 * m)) (wordOfBytes bs m)

theorem loadIn_eq (bs : Bytes) : loadIn bs =
    (List.range (wordCount bs.length)).map (wordTxn bs) ++
      [.write32 Reg.inLen.offset (BitVec.ofNat 32 bs.length)] := rfl

theorem exec_wordTxn {s : State} {bs : Bytes} {m : Nat} (hp : s.phase = .idle)
    (hm : 4 * m < s.params.inCap) :
    exec (wordTxn bs m).instr s = .next (s.storeIn (4 * m) (wordOfBytes bs m)).answerWrite := by
  have hcap := s.params.inCap_bounds
  have hoff : (BitVec.ofNat 22 (0x100000 + 4 * m)).toNat = 0x100000 + 4 * m := by
    rw [BitVec.toNat_ofNat]; omega
  exact execWrite32_idle hp (region_in s.params _ m hoff hm)

/-! ## The first words of IN -/

theorem sameResults_refl (s : State) : sameResults s s :=
  ⟨rfl, rfl, rfl, rfl, rfl, rfl, rfl, rfl, rfl, rfl, rfl, rfl, rfl, rfl⟩

/-- `t` is `s` with the first `n` words of a byte string loaded into IN, and the events `es` still to come. -/
structure WordsLoaded (bs : Bytes) (n : Nat) (es : List Event) (s t : State) : Prop where
  phase : t.phase = .idle
  params : t.params = s.params
  hostFault : t.hostFault = s.hostFault
  pending : t.pending = es
  results : sameResults s t
  inByte : ∀ j, j < 4 * n → t.inByte j = bs.getD j 0

/-- One more word: its transaction is at the front of the queue. -/
theorem WordsLoaded.step {bs : Bytes} {n : Nat} {es : List Event} {s t : State}
    (h : WordsLoaded bs n (.txn (wordTxn bs n) :: es) s t) (hn : 4 * n < s.params.inCap) :
    ∃ u, step t = .next u ∧ WordsLoaded bs (n + 1) es s u := by
  refine ⟨_, (step_of_txn h.pending (.inl ⟨h.phase, rfl⟩)).trans
    (exec_wordTxn h.phase (by rw [← h.params] at hn; exact hn)), ?_⟩
  refine ⟨h.phase, h.params, h.hostFault, rfl, h.results, fun j hj => ?_⟩
  refine (State.inByte_storeIn _ _ _ j).trans ?_
  split_ifs with hin
  · rw [lane_wordOfBytes bs n (by omega), Nat.add_sub_cancel' hin.1]
  · exact h.inByte j (by omega)

/-- A run of the first `n` transactions loads the first `n` words. -/
theorem run_loads_words {bs : Bytes} {n : Nat} {es : List Event} {s : State} (hp : s.phase = .idle)
    (hn : 4 * n < s.params.inCap + 4)
    (hq : s.pending = asEvents ((List.range n).map (wordTxn bs)) ++ es) :
    ∃ t, Sys2Proof.core.run n s = .next t ∧ WordsLoaded bs n es s t := by
  induction n generalizing es with
  | zero =>
    exact ⟨s, rfl, hp, rfl, rfl, hq, sameResults_refl s, fun j hj => absurd hj (by omega)⟩
  | succ n ih =>
    obtain ⟨t, ht, hl⟩ := ih (es := .txn (wordTxn bs n) :: es) (by omega)
      (by simpa [asEvents, List.range_succ] using hq)
    obtain ⟨u, hu, hl'⟩ := hl.step (by omega)
    exact ⟨u, (core_run_succ _ ht).trans hu, hl'⟩

/-- The words of a byte string that fits IN_CAP fit it too, since IN_CAP is a multiple of 4. -/
theorem wordCount_bounds {n cap : Nat} (h : n ≤ cap) :
    n ≤ 4 * wordCount n ∧ 4 * wordCount n < cap + 4 := by
  unfold wordCount
  omega

/-- The first `IN_LEN` bytes of IN are the input (R101). -/
theorem State.input_eq_of_inByte {s : State} {bs : Bytes} (hlen : s.inLen.toNat = bs.length)
    (h : ∀ j, j < bs.length → s.inByte j = bs.getD j 0) : s.input = bs := by
  refine List.ext_getElem (by simp [State.input, hlen]) fun j hj hj' => ?_
  simp [State.input, h j hj', hj']

end Sys2Proof.Machine

namespace Sys2Proof.Proofs

open Sys2Proof.Machine

/-- Settles O31: after the words are loaded, the last transaction stores their length. -/
theorem loadInLoadsItsBytes : Obligations.LoadInLoadsItsBytes := by
  intro s bs hp hfit hq
  obtain ⟨hle, hlt⟩ := wordCount_bounds hfit
  have hcap := s.params.inCap_bounds
  obtain ⟨t, ht, hl⟩ := run_loads_words (bs := bs)
    (es := [.txn (.write32 Reg.inLen.offset (BitVec.ofNat 32 bs.length))]) hp hlt
    (by rw [hq, loadIn_eq, asEvents, List.map_append]; rfl)
  have hstep := (step_of_txn hl.pending (.inl ⟨hl.phase, rfl⟩)).trans
    (execWrite32_idle hl.phase (region_reg t.params .inLen))
  refine ⟨_, (core_run_succ _ ht).trans hstep, ?_, hl.phase, hl.hostFault, rfl, hl.results⟩
  refine State.input_eq_of_inByte ?_ fun j hj => hl.inByte j (by omega)
  exact (BitVec.toNat_ofNat _ _).trans (Nat.mod_eq_of_lt (by omega))

end Sys2Proof.Proofs
end

section
/-! PROOFS. The deserialiser piece by piece: each piece succeeds exactly on its part of the grammar, and moves
past it (30_encoding.md rule R110; 45_header_codec.md rules R241 to R250). -/

namespace Sys2Proof.Machine

/-! ## Moving past bytes -/

/-- From `c` the given bytes lead to `c'`. -/
def Cursor.movesPast (c : Cursor) (bs : Bytes) (c' : Cursor) : Prop :=
  c.rest = bs ++ c'.rest ∧ c'.pos = c.pos + bs.length

theorem expectBytes_ok_iff_movesPast {bs : Bytes} {c c' : Cursor} :
    expectBytes bs c = .ok c' ↔ c.movesPast bs c' :=
  expectBytes_ok_iff bs c c'

theorem Cursor.movesPast_append {c c' : Cursor} {as bs : Bytes} :
    c.movesPast (as ++ bs) c' ↔ ∃ c1, c.movesPast as c1 ∧ c1.movesPast bs c' := by
  constructor
  · rintro ⟨hr, hp⟩
    refine ⟨⟨bs ++ c'.rest, c.pos + as.length⟩, ⟨by rw [hr, List.append_assoc], rfl⟩, rfl, ?_⟩
    rw [hp, List.length_append, Nat.add_assoc]
  · rintro ⟨c1, ⟨hr, hp⟩, hr1, hp1⟩
    exact ⟨by rw [hr, hr1, List.append_assoc], by rw [hp1, hp, List.length_append, Nat.add_assoc]⟩

theorem Cursor.movesPast_unique {c c1 c2 : Cursor} {bs : Bytes} (h1 : c.movesPast bs c1)
    (h2 : c.movesPast bs c2) : c1 = c2 := by
  obtain ⟨r1, p1⟩ := c1
  obtain ⟨r2, p2⟩ := c2
  obtain ⟨hr1, rfl⟩ := h1
  obtain ⟨hr2, rfl⟩ := h2
  obtain rfl : r1 = r2 := List.append_cancel_left (hr1.symm.trans hr2)
  rfl

/-! ## Pairs (R243 to R248) -/

theorem map_bitChar (c : Bits) : c.map bitChar = codeText c := by
  refine List.map_congr_left fun b _ => ?_
  cases b <;> rfl

theorem readSymbol_ok_iff {c c' : Cursor} {s : Byte} :
    readSymbol c = .ok (s, c') ↔ c.movesPast (s :: dashesText) c' := by
  obtain ⟨rest, pos⟩ := c
  cases rest with
  | nil => simp [readSymbol, Cursor.movesPast]
  | cons x xs =>
    have hskip : (Cursor.mk (x :: xs) pos).movesPast (s :: dashesText) c' ↔
        x = s ∧ (Cursor.mk xs (pos + 1)).movesPast dashesText c' := by
      simp only [Cursor.movesPast, List.cons_append, List.cons.injEq, List.length_cons, and_assoc,
        Nat.add_assoc, Nat.add_comm 1]
    rw [hskip, ← expectBytes_ok_iff_movesPast, dashesText]
    simp only [readSymbol]
    cases expectBytes [0x20#8, 0x2D#8, 0x2D#8] ⟨xs, pos + 1⟩ <;> simp

theorem readCode_ok_iff_movesPast {c c' : Cursor} {code : Bits} :
    readCode c.rest c.pos [] = .ok (code, c') ↔
      c.movesPast (codeText code) c' ∧ 1 ≤ code.length ∧ code.length ≤ 255 ∧
        c'.rest.head? = some 0x20 := by
  rw [readCode_ok_iff _ _ _ _ _ (Nat.zero_le _)]
  simp only [List.nil_append, exists_eq_left', map_bitChar, Cursor.movesPast, codeText,
    List.length_map, and_assoc, Nat.one_le_iff_ne_zero, ne_eq, List.length_eq_zero_iff]

/-- A pair may join the table: its symbol is new, and its code conflicts with none (R247, R248). -/
def fitsTable (table : CodeList) (s : Byte) (code : Bits) : Prop :=
  ∀ e ∈ table, e.1 ≠ s ∧ prefixConflict e.2 code = false

theorem prefixFree_append_singleton {table : CodeList} {s : Byte} {code : Bits} :
    prefixFree (table ++ [(s, code)]) = true ↔ prefixFree table = true ∧ fitsTable table s code := by
  simp only [prefixFree, decide_eq_true_eq, List.pairwise_append, List.pairwise_singleton,
    List.mem_singleton, forall_eq, true_and, fitsTable]

theorem prefixFree_of_append {table more : CodeList} (h : prefixFree (table ++ more) = true) :
    prefixFree table = true := by
  rw [prefixFree, decide_eq_true_eq] at h ⊢
  exact (List.pairwise_append.1 h).1

theorem readPair_ok_iff {table table' : CodeList} {c c' : Cursor} :
    readPair table c = .ok (table', c') ↔
      ∃ s code, c.movesPast (pairText s code) c' ∧ (1 ≤ code.length ∧ code.length ≤ 255) ∧
        fitsTable table s code ∧ table' = table ++ [(s, code)] := by
  constructor
  · intro h
    unfold readPair at h
    split at h
    · cases h
    · next s c1 hs =>
      split at h
      · cases h
      · next code c2 hc =>
        split at h
        · cases h
        · next c3 hn =>
          split at h
          · cases h
          · next hi =>
            cases h
            obtain ⟨hc, h1, h255, -⟩ := readCode_ok_iff_movesPast.1 hc
            obtain ⟨hfit, ht⟩ := (insertPair_ok_iff _ _ _ _ _).1 hi
            refine ⟨s, code, ?_, ⟨h1, h255⟩, hfit, ht⟩
            exact Cursor.movesPast_append.2 ⟨c1, readSymbol_ok_iff.1 hs,
              Cursor.movesPast_append.2 ⟨c2, hc, expectBytes_ok_iff_movesPast.1 hn⟩⟩
  · rintro ⟨s, code, hp, ⟨h1, h255⟩, hfit, ht⟩
    obtain ⟨c1, hs, hrest⟩ := Cursor.movesPast_append (as := s :: dashesText).1 hp
    obtain ⟨c2, hc, hn⟩ := Cursor.movesPast_append.1 hrest
    have hsp : c2.rest.head? = some 0x20 := by rw [hn.1]; rfl
    have hn' : expectNx c2 = .ok c' := expectBytes_ok_iff_movesPast.2 hn
    simp only [readPair, readSymbol_ok_iff.2 hs, readCode_ok_iff_movesPast.2 ⟨hc, h1, h255, hsp⟩, hn',
      (insertPair_ok_iff _ _ _ _ c.pos).2 ⟨hfit, ht⟩]

/-! ## The table (R241, R242) -/

theorem tableEnd_iff {c : Cursor} :
    tableEnd c = true ↔ c.movesPast endText ⟨c.rest.drop 3, c.pos + 3⟩ := by
  rw [tableEnd, decide_eq_true_eq]
  constructor
  · intro h
    have hsplit := List.take_append_drop 3 c.rest
    rw [h] at hsplit
    exact ⟨hsplit.symm, rfl⟩
  · rintro ⟨hr, -⟩
    rw [hr]
    rfl

/-- A pair's second byte is a SP, the second byte of `END` is none. -/
theorem not_tableEnd_of_pair {c : Cursor} {s : Byte} {code : Bits} {more : Bytes}
    (h : c.rest = pairText s code ++ more) : tableEnd c = false := by
  rw [tableEnd, h, decide_eq_false_iff_not]
  intro he
  injection he with _ he
  injection he with he _
  exact absurd he (by decide)

/-- A pair takes bytes off, so the loop's bound holds for what is left. -/
theorem rest_shorter_of_pair {c c' : Cursor} {s : Byte} {code : Bits}
    (h : c.movesPast (pairText s code) c') : c'.rest.length < c.rest.length := by
  rw [h.1, List.length_append, pairText, List.length_cons]
  omega

theorem pairsText_cons (s : Byte) (code : Bits) (more : CodeList) :
    pairsText ((s, code) :: more) = pairText s code ++ pairsText more := rfl

theorem codeLengthsLegal_cons (s : Byte) (code : Bits) (more : CodeList) :
    codeLengthsLegal ((s, code) :: more) = true ↔
      (1 ≤ code.length ∧ code.length ≤ 255) ∧ codeLengthsLegal more = true := by
  simp [codeLengthsLegal]

section

variable {fuel : Nat} {table table' : CodeList} {c c' : Cursor}

theorem readPairs_of_tableEnd (h : tableEnd c = true) :
    readPairs (fuel + 1) table c = .ok (table', c') ↔ table' = table ∧ c.movesPast endText c' := by
  have hmove := tableEnd_iff.1 h
  rw [readPairs, if_pos h, Except.ok.injEq, Prod.mk.injEq, eq_comm]
  refine and_congr_right fun _ => ⟨?_, Cursor.movesPast_unique hmove⟩
  rintro rfl
  exact hmove

/-- Where the table does not end, the loop takes one pair and goes on behind it. -/
theorem readPairs_of_not_tableEnd (h : ¬ tableEnd c = true) :
    readPairs (fuel + 1) table c = .ok (table', c') ↔
      ∃ s code c1, c.movesPast (pairText s code) c1 ∧ (1 ≤ code.length ∧ code.length ≤ 255) ∧
        fitsTable table s code ∧ readPairs fuel (table ++ [(s, code)]) c1 = .ok (table', c') := by
  rw [readPairs, if_neg h]
  constructor
  · intro hread
    split at hread
    · cases hread
    · next table1 c1 hp =>
      obtain ⟨s, code, hmove, hlen, hfit, rfl⟩ := readPair_ok_iff.1 hp
      exact ⟨s, code, c1, hmove, hlen, hfit, hread⟩
  · rintro ⟨s, code, c1, hmove, hlen, hfit, hread⟩
    rw [readPair_ok_iff.2 ⟨s, code, hmove, hlen, hfit, rfl⟩]
    exact hread

end

/-- With rounds enough, the loop reads any more pairs that the grammar and the checks allow, and `END`. -/
theorem readPairs_ok_iff {fuel : Nat} {table table' : CodeList} {c c' : Cursor}
    (hfuel : c.rest.length < fuel) (ht : prefixFree table = true) :
    readPairs fuel table c = .ok (table', c') ↔
      ∃ more, table' = table ++ more ∧ c.movesPast (pairsText more ++ endText) c' ∧
        codeLengthsLegal more = true ∧ prefixFree table' = true := by
  induction fuel generalizing table c with
  | zero => exact absurd hfuel (Nat.not_lt_zero _)
  | succ fuel ih =>
    by_cases hend : tableEnd c = true
    · rw [readPairs_of_tableEnd hend]
      constructor
      · rintro ⟨rfl, hmove⟩
        exact ⟨[], (List.append_nil _).symm, hmove, rfl, ht⟩
      · rintro ⟨more, rfl, hc, -, -⟩
        cases more with
        | nil => exact ⟨List.append_nil _, hc⟩
        | cons e more =>
          rw [pairsText_cons, List.append_assoc] at hc
          rw [not_tableEnd_of_pair (hc.1.trans (List.append_assoc _ _ _))] at hend
          cases hend
    · rw [readPairs_of_not_tableEnd hend]
      constructor
      · rintro ⟨s, code, c1, hmove, hlen, hfit, hread⟩
        have hshort := rest_shorter_of_pair hmove
        obtain ⟨more, rfl, hc, hlegal, hfree⟩ :=
          (ih (by omega) (prefixFree_append_singleton.2 ⟨ht, hfit⟩)).1 hread
        refine ⟨(s, code) :: more, (List.append_cons _ _ _).symm, ?_,
          (codeLengthsLegal_cons _ _ _).2 ⟨hlen, hlegal⟩, hfree⟩
        rw [pairsText_cons, List.append_assoc]
        exact Cursor.movesPast_append.2 ⟨c1, hmove, hc⟩
      · rintro ⟨more, rfl, hc, hlegal, hfree⟩
        cases more with
        | nil =>
          refine absurd (tableEnd_iff.2 ?_) hend
          rw [Cursor.movesPast, hc.1]
          exact ⟨rfl, rfl⟩
        | cons e more =>
          obtain ⟨s, code⟩ := e
          rw [pairsText_cons, List.append_assoc] at hc
          obtain ⟨c1, hmove, hc⟩ := Cursor.movesPast_append.1 hc
          obtain ⟨hlen, hlegal⟩ := (codeLengthsLegal_cons _ _ _).1 hlegal
          have hassoc := List.append_cons table (s, code) more
          have hfree1 := prefixFree_of_append (hassoc ▸ hfree)
          have hshort := rest_shorter_of_pair hmove
          exact ⟨s, code, c1, hmove, hlen, (prefixFree_append_singleton.1 hfree1).2,
            (ih (by omega) hfree1).2 ⟨more, hassoc, hc, hlegal, hfree⟩⟩

/-! ## The pad (R249) -/

/-- The digits in front are read, their value saturating at 8. -/
theorem readDigits_eq (bs : Bytes) (pos v : Nat) :
    readDigits bs pos (min v 8) =
      (min ((bs.takeWhile isDigit).foldl (fun v x => 10 * v + (x.toNat - 0x30)) v) 8,
        ⟨bs.dropWhile isDigit, pos + (bs.takeWhile isDigit).length⟩) := by
  induction bs generalizing pos v with
  | nil => rfl
  | cons x xs ih =>
    rw [readDigits]
    split
    · next hx =>
      have hsat : min (10 * min v 8 + (x.toNat - 0x30)) 8 = min (10 * v + (x.toNat - 0x30)) 8 := by
        omega
      rw [hsat, ih, List.takeWhile_cons_of_pos hx, List.dropWhile_cons_of_pos hx, List.foldl_cons,
        List.length_cons, Nat.add_assoc, Nat.add_comm 1]
    · next hx => rw [List.takeWhile_cons_of_neg hx, List.dropWhile_cons_of_neg hx]; rfl

/-- Digits that no digit follows are all read. -/
theorem readDigits_of_movesPast {c c' : Cursor} {digits : Bytes} (hm : c.movesPast digits c')
    (hd : digits.all isDigit = true) (hn : noDigitFirst c'.rest) :
    readDigits c.rest c.pos 0 = (min (decimalValue digits) 8, c') := by
  obtain ⟨hr, hp⟩ := hm
  have hdigits := List.all_eq_true.1 hd
  have hstop : c'.rest.takeWhile isDigit = [] ∧ c'.rest.dropWhile isDigit = c'.rest := by
    cases hc : c'.rest with
    | nil => exact ⟨rfl, rfl⟩
    | cons x xs =>
      have hx : ¬ isDigit x = true := by simp [hn x (by rw [hc]; rfl)]
      exact ⟨List.takeWhile_cons_of_neg hx, List.dropWhile_cons_of_neg hx⟩
  have hread := readDigits_eq c.rest c.pos 0
  rw [hr, List.takeWhile_append_of_pos hdigits, List.dropWhile_append_of_pos hdigits, hstop.1,
    hstop.2, List.append_nil, ← hp] at hread
  rw [hr]
  exact hread

/-- The pad is read exactly where SP, digits writing at most 7, and ` END` stand (R113, R249). -/
theorem readPad_ok_iff {c c' : Cursor} {v : Nat} :
    readPad c = .ok (v, c') ↔
      ∃ digits, (digits ≠ [] ∧ digits.all isDigit = true) ∧ (decimalValue digits = v ∧ v ≤ 7) ∧
        c.movesPast (0x20#8 :: (digits ++ 0x20#8 :: endText)) c' := by
  constructor
  · intro h
    unfold readPad at h
    split at h
    · cases h
    · next c1 h1 =>
      split at h
      · cases h
      · next d ds hds =>
        split at h
        · next hd =>
          have hread := readDigits_eq c1.rest c1.pos 0
          rw [Nat.zero_min] at hread
          simp only [hread] at h
          split at h
          · cases h
          · next c3 h3 =>
            split at h
            · cases h
            · next hle =>
              cases h
              refine ⟨c1.rest.takeWhile isDigit, ⟨?_, List.all_takeWhile⟩, ⟨?_, by omega⟩, ?_⟩
              · rw [hds, List.takeWhile_cons_of_pos hd]; exact List.cons_ne_nil _ _
              · rw [decimalValue]; omega
              · exact (Cursor.movesPast_append (as := [0x20#8])).2
                  ⟨c1, expectBytes_ok_iff_movesPast.1 h1, Cursor.movesPast_append.2
                    ⟨_, ⟨List.takeWhile_append_dropWhile.symm, rfl⟩,
                      expectBytes_ok_iff_movesPast.1 h3⟩⟩
        · cases h
  · rintro ⟨digits, ⟨hne, hd⟩, ⟨hv, h7⟩, hm⟩
    obtain ⟨c1, h1, hm⟩ := (Cursor.movesPast_append (as := [0x20#8])).1 hm
    obtain ⟨c2, h2, h3⟩ := Cursor.movesPast_append.1 hm
    have hstop : noDigitFirst c2.rest := by
      rw [h3.1]
      rintro x ⟨⟩
      rfl
    have hread := readDigits_of_movesPast h2 hd hstop
    rw [hv, min_eq_left (by omega)] at hread
    have h3' : expectBytes [0x20#8, 0x45#8, 0x4E#8, 0x44#8] c2 = .ok c' :=
      expectBytes_ok_iff_movesPast.2 h3
    obtain ⟨d, ds, rfl⟩ := List.exists_cons_of_ne_nil hne
    have hfirst : isDigit d = true := List.all_eq_true.1 hd d List.mem_cons_self
    have hrest : c1.rest = d :: (ds ++ c2.rest) := h2.1
    simp only [readPad, expectBytes_ok_iff_movesPast.2 h1]
    split
    · next hnil => rw [hrest] at hnil; cases hnil
    · next x xs hx =>
      obtain ⟨rfl, -⟩ := List.cons.inj (hrest.symm.trans hx)
      simp only [hfirst, if_true, hread, h3', if_neg (Nat.not_lt.2 h7)]

/-! ## The header (R241, R250) -/

/-- parseHeader succeeds exactly if table and pad are read one after the other, and the payload holds the
pad's bits. -/
theorem parseHeader_ok_iff {artifact : Bytes} {h : Header} :
    parseHeader artifact = .ok h ↔
      ∃ c, readPairs (artifact.length + 1) [] ⟨artifact, 0⟩ = .ok (h.table, c) ∧
        readPad c = .ok (h.pad, ⟨h.payload, h.length⟩) ∧ h.pad ≤ 8 * h.payload.length := by
  constructor
  · intro hp
    unfold parseHeader at hp
    split at hp
    · cases hp
    · next table c ht =>
      split at hp
      · cases hp
      · next pad c' hpad =>
        split at hp
        · cases hp
        · next hle => cases hp; exact ⟨c, ht, hpad, Nat.le_of_not_lt hle⟩
  · rintro ⟨c, ht, hpad, hle⟩
    simp only [parseHeader, ht, hpad, if_neg (Nat.not_lt.2 hle)]

theorem headerText_eq (table : CodeList) (digits : Bytes) :
    headerText table digits =
      (pairsText table ++ endText) ++ 0x20#8 :: (digits ++ 0x20#8 :: endText) := rfl

end Sys2Proof.Machine

namespace Sys2Proof.Proofs

open Sys2Proof.Machine

/-- Settles O54: the table, the pad and the payload stand one after the other. -/
theorem parserAcceptsTheGrammar : Obligations.ParserAcceptsTheGrammar := by
  intro artifact h
  have htable : ∀ c : Cursor, readPairs (artifact.length + 1) [] ⟨artifact, 0⟩ = .ok (h.table, c) ↔
      (Cursor.mk artifact 0).movesPast (pairsText h.table ++ endText) c ∧
        codeLengthsLegal h.table = true ∧ prefixFree h.table = true := fun c => by
    refine (readPairs_ok_iff (Nat.lt_succ_self _) rfl).trans ?_
    simp only [List.nil_append, exists_eq_left']
  simp only [parseHeader_ok_iff, htable, readPad_ok_iff]
  constructor
  · rintro ⟨c, ⟨hpairs, hlegal, hfree⟩, ⟨digits, ⟨hne, hd⟩, ⟨hv, h7⟩, hpad⟩, hle⟩
    obtain ⟨hart, hlen⟩ := Cursor.movesPast_append.2 ⟨c, hpairs, hpad⟩
    exact ⟨digits, hne, hd, hv, h7, hle, hfree, hlegal, hlen.trans (Nat.zero_add _), hart⟩
  · rintro ⟨digits, hne, hd, hv, h7, hle, hfree, hlegal, hlen, hart⟩
    have hall : (Cursor.mk artifact 0).movesPast (headerText h.table digits) ⟨h.payload, h.length⟩ :=
      ⟨hart, hlen.trans (Nat.zero_add _).symm⟩
    rw [headerText_eq] at hall
    obtain ⟨c, hpairs, hpad⟩ := Cursor.movesPast_append.1 hall
    exact ⟨c, ⟨hpairs, hlegal, hfree⟩, ⟨digits, ⟨hne, hd⟩, ⟨hv, h7⟩, hpad⟩, hle⟩

end Sys2Proof.Proofs
end

section
/-! PROOFS. The tree's codes are those of the text's distinct symbols, each once, so the serialiser writes the
grammar's text of them (42_tree_builder.md; 43_code_table.md rule R210; 45_header_codec.md rule R240). -/

namespace Sys2Proof.Machine

/-! ## The leaves (R180, R190) -/

/-- A text of at most 2^20 bytes overflows no counter (R183). -/
theorem frequencyTable_ne_zero_iff {text : Bytes} (h : text.length ≤ 2 ^ 20) (s : Fin 256) :
    (frequencyTable text)[s] ≠ 0 ↔ BitVec.ofFin s ∈ text := by
  have hle : text.count (BitVec.ofFin s) ≤ text.length := List.count_le_length
  have hget : (frequencyTable text)[s] = BitVec.ofNat 32 (text.count (BitVec.ofFin s)) := by
    simp [frequencyTable]
  have htoNat : (frequencyTable text)[s].toNat = text.count (BitVec.ofFin s) := by
    rw [hget, BitVec.toNat_ofNat, Nat.mod_eq_of_lt (by omega)]
  rw [← List.count_pos_iff, ← htoNat, Nat.pos_iff_ne_zero, ne_eq, ne_eq, ← BitVec.toNat_inj]
  rfl

theorem leaves_symbols {text : Bytes} (h : text.length ≤ 2 ^ 20) :
    (leaves (frequencyTable text)).map Node.sym = distinctSymbols text := by
  rw [leaves, distinctSymbols, List.map_filterMap, List.filter_map, ← List.filterMap_eq_filter,
    List.map_filterMap]
  refine List.filterMap_congr fun s _ => ?_
  have hs := frequencyTable_ne_zero_iff h s
  by_cases hm : BitVec.ofFin s ∈ text
  · rw [if_pos (hs.2 hm)]
    simp [hm, Option.guard, Node.ofSymbol]
  · rw [if_neg (mt hs.1 hm)]
    simp [hm, Option.guard]

theorem leaves_leaf {freq : Vector Word 256} {n : Node} (h : n ∈ leaves freq) : n.leaf = true := by
  obtain ⟨s, -, hs⟩ := List.mem_filterMap.1 h
  split_ifs at hs
  cases hs
  rfl

theorem mem_distinctSymbols {text : Bytes} {b : Byte} : b ∈ distinctSymbols text ↔ b ∈ text := by
  rw [distinctSymbols, List.mem_filter, decide_eq_true_eq, and_iff_right_iff_imp]
  exact fun _ => List.mem_map.2 ⟨b.toFin, List.mem_finRange _, rfl⟩

theorem distinctSymbols_nodup (text : Bytes) : (distinctSymbols text).Nodup :=
  ((List.nodup_finRange 256).map fun _ _ h => congrArg BitVec.toFin h).filter _

/-! ## The symbols below a node (R210) -/

/-- Children stand below their parents in the arena (R198). -/
def childrenBelow (arena : List Node) : Prop :=
  ∀ (i : Nat) (n : Node), arena[i]? = some n → n.leaf = false →
    n.left.toNat < i ∧ n.right.toNat < i

/-- The symbols of the leaves below node `i`, from left to right. -/
def symbolsBelow (arena : List Node) (i : Nat) : List Byte :=
  (codesBelow arena (i + 1) i []).map Prod.fst

section

variable {arena : List Node} {i : Nat} {n : Node}

theorem codesBelow_leaf (hi : arena[i]? = some n) (hn : n.leaf = true) (d : Nat) (path : Bits) :
    codesBelow arena (d + 1) i path = [(n.sym, path)] := by
  simp [codesBelow, List.getD, hi, hn]

theorem codesBelow_internal (hi : arena[i]? = some n) (hn : n.leaf = false) (d : Nat) (path : Bits) :
    codesBelow arena (d + 1) i path =
      codesBelow arena d n.left.toNat (path ++ [false]) ++
        codesBelow arena d n.right.toNat (path ++ [true]) := by
  simp [codesBelow, List.getD, hi, hn]

/-- An index bounds the depth of the tree below it (R198; log 11). -/
theorem codesBelow_depth (ho : childrenBelow arena) {d : Nat} (hi : i < arena.length) (hd : i < d)
    (path : Bits) : codesBelow arena d i path = codesBelow arena (i + 1) i path := by
  induction i using Nat.strong_induction_on generalizing d path with
  | _ i ih =>
    obtain ⟨d, rfl⟩ := Nat.exists_eq_add_of_lt hd
    have hn := List.getElem?_eq_getElem hi
    cases hleaf : arena[i].leaf with
    | true => rw [codesBelow_leaf hn hleaf, codesBelow_leaf hn hleaf]
    | false =>
      obtain ⟨hl, hr⟩ := ho _ _ hn hleaf
      have child : ∀ j, j < i → ∀ p, codesBelow arena (i + d) j p = codesBelow arena i j p :=
        fun j hj p => (ih j hj (by omega) (by omega) p).trans (ih j hj (by omega) hj p).symm
      rw [codesBelow_internal hn hleaf, codesBelow_internal hn hleaf, child _ hl, child _ hr]

/-- New nodes at the end of the arena leave the tree below an old one alone. -/
theorem codesBelow_append (ho : childrenBelow arena) (more : List Node) (hi : i < arena.length)
    (d : Nat) (path : Bits) : codesBelow (arena ++ more) d i path = codesBelow arena d i path := by
  induction d generalizing i path with
  | zero => rfl
  | succ d ih =>
    have hn := List.getElem?_eq_getElem hi
    have hn' := (List.getElem?_append_left (l₂ := more) hi).trans hn
    cases hleaf : arena[i].leaf with
    | true => rw [codesBelow_leaf hn hleaf, codesBelow_leaf hn' hleaf]
    | false =>
      obtain ⟨hl, hr⟩ := ho _ _ hn hleaf
      rw [codesBelow_internal hn hleaf, codesBelow_internal hn' hleaf, ih (by omega), ih (by omega)]

/-- The path to a node has no part in the symbols below it. -/
theorem codesBelow_symbols_path (arena : List Node) (d i : Nat) (p q : Bits) :
    (codesBelow arena d i p).map Prod.fst = (codesBelow arena d i q).map Prod.fst := by
  induction d generalizing i p q with
  | zero => rfl
  | succ d ih =>
    simp only [codesBelow]
    split
    · rfl
    · rw [List.map_append, List.map_append, ih _ (p ++ [false]) (q ++ [false]),
        ih _ (p ++ [true]) (q ++ [true])]

/-- The codes below a node begin with the path to it. -/
theorem codesBelow_ne_nil {d : Nat} {path : Bits} (hp : path ≠ []) :
    ∀ e ∈ codesBelow arena d i path, e.2 ≠ [] := by
  induction d generalizing i path with
  | zero => intro e he; cases he
  | succ d ih =>
    intro e he
    simp only [codesBelow] at he
    split at he
    · rw [List.mem_singleton.1 he]; exact hp
    · obtain he | he := List.mem_append.1 he
      · exact ih (by simp) e he
      · exact ih (by simp) e he

theorem codesBelow_symbols (ho : childrenBelow arena) {d : Nat} (hi : i < arena.length) (hd : i < d)
    (path : Bits) : (codesBelow arena d i path).map Prod.fst = symbolsBelow arena i := by
  rw [codesBelow_depth ho hi hd]
  exact codesBelow_symbols_path _ _ _ _ _

theorem symbolsBelow_leaf (hi : arena[i]? = some n) (hn : n.leaf = true) :
    symbolsBelow arena i = [n.sym] := by
  rw [symbolsBelow, codesBelow_leaf hi hn]; rfl

theorem symbolsBelow_internal (ho : childrenBelow arena) (hi : arena[i]? = some n)
    (hn : n.leaf = false) :
    symbolsBelow arena i = symbolsBelow arena n.left.toNat ++ symbolsBelow arena n.right.toNat := by
  obtain ⟨hl, hr⟩ := ho _ _ hi hn
  have hlt := (List.getElem?_eq_some_iff.1 hi).1
  rw [symbolsBelow, codesBelow_internal hi hn, List.map_append,
    codesBelow_symbols ho (hl.trans hlt) hl, codesBelow_symbols ho (hr.trans hlt) hr]

theorem symbolsBelow_append (ho : childrenBelow arena) (more : List Node) (hi : i < arena.length) :
    symbolsBelow (arena ++ more) i = symbolsBelow arena i := by
  rw [symbolsBelow, codesBelow_append ho more hi]; rfl

end

/-! ## The merge loop (R192 to R194) -/

/-- The working collection is a forest over the given symbols: each stands below one of its indices, once.
Arena and collection together hold at most 512 indices, so a child's index fits its field (R52). -/
structure Forest (arena : List Node) (w : List Nat) (syms : List Byte) : Prop where
  ordered : childrenBelow arena
  members : ∀ i ∈ w, i < arena.length
  symbols : (w.flatMap (symbolsBelow arena)).Perm syms
  size : arena.length + w.length ≤ 512

/-- The leaves alone are a forest (R190). -/
theorem leaves_forest (freq : Vector Word 256) :
    Forest (leaves freq) (List.range (leaves freq).length) ((leaves freq).map Node.sym) := by
  have hlen := leaves_length_le freq
  refine ⟨fun i n hi hn => ?_, fun i hi => List.mem_range.1 hi, ?_, by rw [List.length_range]; omega⟩
  · rw [leaves_leaf (List.mem_of_getElem? hi)] at hn
    cases hn
  · refine List.Perm.of_eq ?_
    have hone : ∀ i ∈ List.range (leaves freq).length,
        symbolsBelow (leaves freq) i = [((leaves freq).getD i Node.unused).sym] := fun i hi => by
      have hn := List.getElem?_eq_getElem (List.mem_range.1 hi)
      rw [symbolsBelow_leaf hn (leaves_leaf (List.getElem_mem _)), List.getD, hn, Option.getD_some]
    rw [List.flatMap_congr hone, ← List.map_eq_flatMap]
    refine List.ext_getElem (by simp) fun i hi hi' => ?_
    simp only [List.length_map] at hi'
    simp [hi']

section

variable {arena : List Node} {x y : Nat}

/-- An arena of at most 512 nodes has indices that a child's field holds (R52). -/
theorem mergedNode_children (hx : x < 512) (hy : y < 512) :
    (mergedNode arena x y).left.toNat = x ∧ (mergedNode arena x y).right.toNat = y :=
  ⟨(BitVec.toNat_ofNat _ _).trans (Nat.mod_eq_of_lt hx),
    (BitVec.toNat_ofNat _ _).trans (Nat.mod_eq_of_lt hy)⟩

variable (ho : childrenBelow arena) (hx : x < arena.length) (hy : y < arena.length)
  (hsize : arena.length ≤ 512)

include ho hx hy hsize

theorem childrenBelow_merge : childrenBelow (arena ++ [mergedNode arena x y]) := by
  obtain ⟨hleft, hright⟩ := mergedNode_children (arena := arena) (hx.trans_le hsize) (hy.trans_le hsize)
  intro i n hi hn
  have hbound := (List.getElem?_eq_some_iff.1 hi).1
  rw [List.length_append, List.length_singleton] at hbound
  obtain hlt | rfl := Nat.lt_succ_iff_lt_or_eq.1 hbound
  · exact ho i n ((List.getElem?_append_left hlt).symm.trans hi) hn
  · obtain rfl := Option.some.inj (List.getElem?_concat_length.symm.trans hi)
    rw [hleft, hright]
    exact ⟨hx, hy⟩

/-- The symbols below a merged node are those below its two children. -/
theorem symbolsBelow_merge :
    symbolsBelow (arena ++ [mergedNode arena x y]) arena.length =
      symbolsBelow arena x ++ symbolsBelow arena y := by
  obtain ⟨hleft, hright⟩ := mergedNode_children (arena := arena) (hx.trans_le hsize) (hy.trans_le hsize)
  rw [symbolsBelow_internal (childrenBelow_merge ho hx hy hsize) List.getElem?_concat_length rfl, hleft,
    hright, symbolsBelow_append ho _ hx, symbolsBelow_append ho _ hy]

end

/-- A merge keeps the forest: the new node stands for the two that were selected (R193). -/
theorem Forest.merge {arena : List Node} {w : List Nat} {syms : List Byte} {x y : Nat}
    (h : Forest arena w syms) (hsel : selectTwo arena w = some (x, y)) :
    Forest (arena ++ [mergedNode arena x y]) ((w.erase x).erase y ++ [arena.length]) syms := by
  obtain ⟨hx, hy⟩ := selectTwo_mem hsel
  obtain ⟨ho, hmem, hsyms, hsize⟩ := h
  have hxlt := hmem x hx
  have hylt := hmem y (List.mem_of_mem_erase hy)
  have hrest : ∀ i ∈ (w.erase x).erase y, i < arena.length := fun i hi =>
    hmem i (List.mem_of_mem_erase (List.mem_of_mem_erase hi))
  have hlen := length_merged hsel arena.length
  refine ⟨childrenBelow_merge ho hxlt hylt (by omega), fun i hi => ?_, ?_, ?_⟩
  · rw [List.length_append, List.length_singleton]
    obtain hi | hi := List.mem_append.1 hi
    · exact Nat.lt_succ_of_lt (hrest i hi)
    · rw [List.mem_singleton.1 hi]; exact Nat.lt_succ_self _
  · have hold : ((w.erase x).erase y).flatMap (symbolsBelow (arena ++ [mergedNode arena x y])) =
        ((w.erase x).erase y).flatMap (symbolsBelow arena) :=
      List.flatMap_congr fun i hi => symbolsBelow_append ho _ (hrest i hi)
    have hw : w.Perm (x :: y :: (w.erase x).erase y) :=
      (List.perm_cons_erase hx).trans ((List.perm_cons_erase hy).cons x)
    rw [List.flatMap_append, hold, List.flatMap_singleton,
      symbolsBelow_merge ho hxlt hylt (by omega)]
    refine List.perm_append_comm.trans (List.Perm.trans ?_ hsyms)
    rw [List.append_assoc]
    exact (hw.flatMap_right _).symm
  · rw [List.length_append, List.length_singleton]
    omega

theorem Forest.mergeLoop {arena : List Node} {w : List Nat} {syms : List Byte} (fuel : Nat)
    (h : Forest arena w syms) :
    Forest (mergeLoop fuel arena w).1 (mergeLoop fuel arena w).2 syms := by
  induction fuel generalizing arena w with
  | zero => exact h
  | succ fuel ih =>
    rw [Machine.mergeLoop]
    split
    · exact h
    · next hsel => exact ih (h.merge hsel)

/-- Selection stops only once fewer than two indices are left (R194). -/
theorem length_le_one_of_selectTwo {arena : List Node} {w : List Nat}
    (h : selectTwo arena w = none) : w.length ≤ 1 := by
  unfold selectTwo at h
  split at h
  · next hx => rw [(argmin_eq_none_iff _ _).1 hx]; exact Nat.zero_le _
  · next x hx =>
    split at h
    · next hy =>
      have hlen := List.length_erase_add_one (argmin_mem _ _ _ hx)
      rw [(argmin_eq_none_iff _ _).1 hy] at hlen
      exact hlen.ge
    · cases h

/-- As many merges as indices are enough (log 11). -/
theorem mergeLoop_length_le_one {fuel : Nat} (arena : List Node) {w : List Nat}
    (h : w.length ≤ fuel + 1) : (mergeLoop fuel arena w).2.length ≤ 1 := by
  induction fuel generalizing arena w with
  | zero => exact h
  | succ fuel ih =>
    rw [mergeLoop]
    split
    · next hsel => exact length_le_one_of_selectTwo hsel
    · next hsel =>
      have hlen := length_merged hsel arena.length
      exact ih _ (by omega)

/-- The built tree holds every leaf's symbol below its root (R194, R195). -/
theorem buildTree_forest {freq : Vector Word 256} (hne : leaves freq ≠ []) :
    Forest (buildTree freq).arena [(buildTree freq).root] ((leaves freq).map Node.sym) := by
  have hforest := (leaves_forest freq).mergeLoop (leaves freq).length
  have hnil := mergeLoop_ne_nil (leaves freq).length (leaves freq)
    (w := List.range (leaves freq).length) (by simpa using hne)
  have hone := mergeLoop_length_le_one (fuel := (leaves freq).length) (leaves freq)
    (w := List.range (leaves freq).length) (by simp)
  simp only [buildTree]
  obtain ⟨root, hroot⟩ := List.length_eq_one_iff.1 (Nat.le_antisymm hone (List.length_pos_iff.2 hnil))
  rw [hroot] at hforest ⊢
  exact hforest

/-! ## The code list (R210, R211) -/

section

variable {tree : Tree} {syms : List Byte} (h : Forest tree.arena [tree.root] syms)

include h

theorem codeList_symbols : ((codeList tree).map Prod.fst).Perm syms := by
  have hlt := h.members tree.root List.mem_cons_self
  have hn := List.getElem?_eq_getElem hlt
  have hsyms : (symbolsBelow tree.arena tree.root).Perm syms := by simpa using h.symbols
  refine List.Perm.trans (List.Perm.of_eq ?_) hsyms
  simp only [codeList, List.getD, hn, Option.getD_some]
  split
  · next hleaf => rw [symbolsBelow_leaf hn hleaf]; rfl
  · exact codesBelow_symbols h.ordered hlt hlt []

theorem codeList_ne_nil : ∀ e ∈ codeList tree, e.2 ≠ [] := by
  intro e he
  have hlt := h.members tree.root List.mem_cons_self
  have hn := List.getElem?_eq_getElem hlt
  simp only [codeList, List.getD, hn, Option.getD_some] at he
  split at he
  · rw [List.mem_singleton.1 he]; exact List.cons_ne_nil _ _
  · next hleaf =>
    rw [codesBelow_depth h.ordered hlt hlt, codesBelow_internal hn (by simpa using hleaf)] at he
    obtain he | he := List.mem_append.1 he
    · exact codesBelow_ne_nil (by simp) e he
    · exact codesBelow_ne_nil (by simp) e he

end

theorem codeOf_of_mem {codes : CodeList} (hnodup : (codes.map Prod.fst).Nodup) {e : Byte × Bits}
    (he : e ∈ codes) : codeOf codes e.1 = e.2 := by
  induction codes with
  | nil => cases he
  | cons d codes ih =>
    rw [List.map_cons, List.nodup_cons] at hnodup
    obtain rfl | he := List.mem_cons.1 he
    · rw [codeOf, List.lookup_cons, beq_self_eq_true, Option.getD_some]
    · have hne : e.1 ≠ d.1 := fun heq => hnodup.1 (heq ▸ List.mem_map_of_mem he)
      have := ih hnodup.2 he
      rw [codeOf] at this ⊢
      rwa [List.lookup_cons, beq_false_of_ne hne]

theorem codeOf_of_not_mem {codes : CodeList} {s : Byte} (hs : s ∉ codes.map Prod.fst) :
    codeOf codes s = [] := by
  have hnone : codes.lookup s = none := List.lookup_eq_none_iff.2 fun e he =>
    bne_iff_ne.2 fun heq => hs (heq ▸ List.mem_map_of_mem he)
  rw [codeOf, hnone, Option.getD_none]

/-- The text's distinct symbols in ascending value, each with its code. -/
def headerPairs (codes : CodeList) (text : Bytes) : CodeList :=
  (distinctSymbols text).map fun b => (b, codeOf codes b)

section

variable {codes : CodeList} {text : Bytes}
  (hperm : (codes.map Prod.fst).Perm (distinctSymbols text))

include hperm

theorem headerPairs_perm : (headerPairs codes text).Perm codes := by
  have hnodup : (codes.map Prod.fst).Nodup := hperm.nodup_iff.2 (distinctSymbols_nodup text)
  have hself : codes.map (fun e => (e.1, codeOf codes e.1)) = codes :=
    (List.map_congr_left fun e he => by rw [codeOf_of_mem hnodup he]; rfl).trans (List.map_id _)
  have := (hperm.map fun b => (b, codeOf codes b)).symm
  rw [List.map_map] at this
  exact this.trans (List.Perm.of_eq hself)

variable (hne : ∀ e ∈ codes, e.2 ≠ [])

include hne

/-- The symbols with a code are the text's (R240). -/
theorem codeOf_eq_nil_iff (b : Byte) : codeOf codes b = [] ↔ b ∉ text := by
  rw [← mem_distinctSymbols, ← hperm.mem_iff]
  refine ⟨fun hnil hmem => ?_, codeOf_of_not_mem⟩
  obtain ⟨e, he, rfl⟩ := List.mem_map.1 hmem
  rw [codeOf_of_mem (hperm.nodup_iff.2 (distinctSymbols_nodup text)) he] at hnil
  exact hne e he hnil

/-- The serialiser writes the grammar's text of the pairs (R240). -/
theorem serializeHeader_eq (pad : Nat) :
    serializeHeader codes pad = headerText (headerPairs codes text) [BitVec.ofNat 8 (0x30 + pad)] := by
  have hpairs : pairsText (headerPairs codes text) =
      (List.finRange 256).flatMap fun s : Fin 256 =>
        if codeOf codes (BitVec.ofFin s) = [] then []
        else pairBytes (BitVec.ofFin s) (codeOf codes (BitVec.ofFin s)) := by
    rw [pairsText, headerPairs, List.flatMap_map, distinctSymbols, List.filter_map, List.flatMap_map]
    induction List.finRange 256 with
    | nil => rfl
    | cons s l ih =>
      rw [List.flatMap_cons, ← ih]
      by_cases hs : BitVec.ofFin s ∈ text
      · rw [List.filter_cons_of_pos (by simpa using hs), List.flatMap_cons,
          if_neg (mt (codeOf_eq_nil_iff hperm hne _).1 (not_not.2 hs)), pairBytes_eq]
      · rw [List.filter_cons_of_neg (by simpa using hs), if_pos ((codeOf_eq_nil_iff hperm hne _).2 hs),
          List.nil_append]
  rw [headerText_eq, hpairs, List.append_assoc]
  rfl

end

/-! ## Lengths (R116) -/

theorem pairText_length (s : Byte) (c : Bits) : (pairText s c).length = c.length + 8 := by
  simp [pairText, dashesText, codeText, separatorText]

theorem headerText_length (table : CodeList) (digits : Bytes) :
    (headerText table digits).length =
      (table.map fun e => e.2.length + 8).sum + digits.length + 8 := by
  simp only [headerText, pairsText, List.length_append, List.length_flatMap, pairText_length,
    List.length_cons, endText, List.length_nil]
  omega

/-- The payload has the bits' bytes (R116, R223). -/
theorem pack_length (bits : Bits) : (pack bits).length = (bits.length + 7) / 8 := by
  rw [pack_byte_count, padLength]
  omega

theorem encodeText_codes_eq (text : Bytes) :
    (encodeText text).codes = codeList (buildTree (frequencyTable text)) := by
  simp only [encodeText]

theorem encodeText_header_eq (text : Bytes) : (encodeText text).header =
    serializeHeader (encodeText text).codes (padLength (encodeText text).bits.length) := by
  simp only [encodeText]

theorem encodeText_payload_eq (text : Bytes) :
    (encodeText text).payload = pack (encodeText text).bits := by
  simp only [encodeText]

/-- What ENCODE computes of a text: its codes are those of the distinct symbols, and none is empty. -/
theorem encodeText_codes {text : Bytes} (hne : text ≠ []) (hlen : text.length ≤ 2 ^ 20) :
    ((encodeText text).codes.map Prod.fst).Perm (distinctSymbols text) ∧
      ∀ e ∈ (encodeText text).codes, e.2 ≠ [] := by
  obtain ⟨b, hb⟩ := List.exists_mem_of_ne_nil text hne
  have hleaves : leaves (frequencyTable text) ≠ [] := fun hnil => by
    have := mem_distinctSymbols.2 hb
    rw [← leaves_symbols hlen, hnil] at this
    cases this
  have hforest := buildTree_forest hleaves
  rw [leaves_symbols hlen] at hforest
  rw [encodeText_codes_eq]
  exact ⟨codeList_symbols hforest, codeList_ne_nil hforest⟩

end Sys2Proof.Machine

namespace Sys2Proof.Proofs

open Sys2Proof.Machine

/-- Settles O53: the tree gives each distinct symbol one code, which the serialiser writes in ascending value. -/
theorem headerLength : Obligations.HeaderLength := by
  intro text hne hlen e pairs
  obtain ⟨hperm, hcodes⟩ := encodeText_codes hne hlen
  have htext := serializeHeader_eq hperm hcodes
  have hheader : e.header = headerText pairs [BitVec.ofNat 8 (0x30 + padLength e.bits.length)] :=
    (encodeText_header_eq text).trans (htext _)
  refine ⟨fun pad _ => htext pad, hheader, ?_, ?_⟩
  · have hsum : (pairs.map fun c => c.2.length + 8).sum = (e.codes.map fun c => c.2.length + 8).sum :=
      ((headerPairs_perm hperm).map _).sum_eq
    rw [hheader, headerText_length, hsum]
    rfl
  · rw [Encoding.artifact, List.length_append, encodeText_payload_eq, pack_length]

end Sys2Proof.Proofs
end

section
/-! PROOFS. The two ways a command ends, as the relations of the statements, and when ENCODE and DECODE end in
which (40_command_interface.md rules R147 to R153; 60_exceptions.md rules R297, R298, R301). -/

namespace Sys2Proof.Machine

/-! ## STATUS at a completion (R148, R301) -/

/-- A completion writes bits 0 to 6 of STATUS and leaves the others. -/
theorem completeStatus_validStatus (st : Word) (o f t c e : Bool) :
    completeStatus (validStatus st o f t c) e =
      (st &&& ~~~(0x7F#32)) ||| completeStatus (validStatus 0 o f t c) e := by
  refine status_ext fun j hj => ?_
  have hmask : (0x7F#32).getLsbD j = decide (j < 7) := by interval_cases j <;> rfl
  simp only [BitVec.getLsbD_or, BitVec.getLsbD_and, BitVec.getLsbD_not, hmask, hj]
  simp only [BitVec.getLsbD_eq_getElem hj, completeStatus_getElem, validStatus_getElem]
  by_cases h7 : j < 7
  · interval_cases j <;> simp
  · have : j ≠ 6 ∧ j ≠ 5 ∧ j ≠ 4 ∧ j ≠ 3 ∧ j ≠ 2 ∧ j ≠ 1 ∧ j ≠ 0 := by omega
    simp [this, h7]

/-! ## The error completion (R301) -/

/-- A raised error is taken by the error completion. -/
theorem failedWith_fail (s : State) (e : CmdError) :
    failedWith s (s.fail e) (e.kind.code.setWidth 32) e.info := by
  have hstatus : errorStatus s.status = (s.status &&& ~~~(0x7F#32)) ||| 0x06#32 :=
    completeStatus_validStatus s.status false false false false true
  refine ⟨Config.freeFreq s.draws, Config.freeCode s.draws, Config.freeNode s.draws, [], s.draws + 1,
    ?_, fun j => by simp [State.outByte]⟩
  rw [State.fail, hstatus]
  rfl

/-- Every error's code is one of R290. -/
theorem errorCode_mem (k : ErrorKind) :
    k.code.setWidth 32 ∈ [0x01#32, 0x02#32, 0x03#32, 0x04#32, 0x10#32, 0x11#32] := by
  cases k <;> decide

/-! ## ENCODE's and DECODE's checks (R297, R298) -/

section

variable {s : State}

theorem State.input_length (s : State) : s.input.length = s.inLen.toNat := by simp [State.input]

theorem encodeResult_tooLong (h : s.params.inCap < s.inLen.toNat) :
    encodeResult s = .error (capacityError 0) :=
  if_pos h

theorem encodeResult_empty (h : s.inLen.toNat = 0) : encodeResult s = .error emptyInputError := by
  rw [encodeResult, if_neg (by omega), if_pos h]

theorem encodeResult_overflow (h0 : 0 < s.inLen.toNat) (hin : s.inLen.toNat ≤ s.params.inCap)
    (hout : s.params.outCap < (encodeText s.input).artifact.length) :
    encodeResult s = .error (capacityError (encodeText s.input).artifact.length) := by
  rw [encodeResult, if_neg (by omega), if_neg (by omega)]
  exact if_pos hout

theorem decodeResult_tooLong (h : s.params.inCap < s.inLen.toNat) :
    decodeResult s = .error (capacityError 0) :=
  if_pos h

variable (hin : s.inLen.toNat ≤ s.params.inCap)

include hin

theorem decodeResult_header {e : CmdError} (hp : parseHeader s.input = .error e) :
    decodeResult s = .error e := by
  rw [decodeResult, if_neg (by omega), decodeArtifact, hp]

variable {h : Header} (hp : parseHeader s.input = .ok h)

include hp

theorem decodeResult_bits_error {e : CmdError}
    (hd : decodeBits s.params.outCap h.table (unpack h.payload h.pad) = .error e) :
    decodeResult s = .error e := by
  simp only [decodeResult, if_neg (Nat.not_lt.2 hin), decodeArtifact, hp, hd]

theorem decodeResult_ok {text : Bytes}
    (hd : decodeBits s.params.outCap h.table (unpack h.payload h.pad) = .ok text) :
    decodeResult s = .ok ⟨h, unpack h.payload h.pad, text⟩ := by
  simp only [decodeResult, if_neg (Nat.not_lt.2 hin), decodeArtifact, hp, hd]

end

/-! ## The sizes of the results (R116, R184, R221, R250) -/

theorem toNat_ofNat_of_lt {n : Nat} (h : n < 2 ^ 32) : (BitVec.ofNat 32 n).toNat = n :=
  (BitVec.toNat_ofNat n 32).trans (Nat.mod_eq_of_lt h)

/-- A counter is its symbol's number of occurrences (R180, R183). -/
theorem frequencyTable_toNat {text : Bytes} (h : text.length ≤ 2 ^ 20) (b : Fin 256) :
    (frequencyTable text)[b].toNat = text.count (BitVec.ofFin b) := by
  have hle : text.count (BitVec.ofFin b) ≤ text.length := List.count_le_length
  have hget : (frequencyTable text)[b] = BitVec.ofNat 32 (text.count (BitVec.ofFin b)) := by
    simp [frequencyTable]
  rw [hget, toNat_ofNat_of_lt (by omega)]

/-- m is the number of the text's distinct symbols (R184). -/
theorem distinctCount_frequencyTable {text : Bytes} (h : text.length ≤ 2 ^ 20) :
    distinctCount (frequencyTable text) = (distinctSymbols text).length := by
  rw [distinctCount, distinctSymbols, ← List.countP_eq_length_filter, List.countP_map]
  exact List.countP_congr fun b _ => by
    simpa using frequencyTable_ne_zero_iff h b

theorem unpack_length (payload : Bytes) (pad : Nat) :
    (unpack payload pad).length = 8 * payload.length - pad := by
  have hall : (payload.flatMap byteBits).length = 8 * payload.length := by
    simp [List.length_flatMap, Nat.mul_comm]
  rw [unpack, List.length_take, hall]
  omega

/-- Header and payload are the whole artifact (R110). -/
theorem parseHeader_length {artifact : Bytes} {h : Header} (hp : parseHeader artifact = .ok h) :
    h.length + h.payload.length = artifact.length := by
  obtain ⟨digits, -, -, -, -, -, -, -, hlen, hart⟩ :=
    (Sys2Proof.Proofs.parserAcceptsTheGrammar artifact h).1 hp
  rw [hart, hlen, List.length_append]

/-! ## The successful completion (R148) -/

theorem succeed_completes {s u : State} (h : onlyResultsChanged s u.succeed) :
    u.succeed.error = 0 ∧ u.succeed.errInfo = 0 ∧ statusBusy u.succeed.status = false ∧
      statusDone u.succeed.status = true ∧ statusErr u.succeed.status = false ∧
      onlyResultsChanged s u.succeed :=
  ⟨rfl, rfl, statusBusy_complete _ _, statusDone_complete _ _, statusErr_complete _ _, h⟩

/-- A byte string stored in OUT with its length and OUT_VALID = 1: its bytes are readable, and nothing beyond
them (R54). -/
theorem stored_out {t : State} {m : Memory} {bs : Bytes}
    (hout : t.outBuf = Memory.writeBytes m 0 bs) (hlen : t.outLen = BitVec.ofNat 32 bs.length)
    (hv : statusOutValid t.status = true) (hlt : bs.length < 2 ^ 32) :
    (∀ j (h : j < bs.length), t.outByte j = some bs[j]) ∧
      ∀ j, bs.length ≤ j → t.outByte j = none ∧ Memory.read t.outBuf j = Memory.read m j := by
  have hn : t.outLen.toNat = bs.length := hlen ▸ toNat_ofNat_of_lt hlt
  refine ⟨fun j hj => ?_, fun j hj => ⟨?_, ?_⟩⟩
  · rw [outByte_of_stored hout hlen, if_pos ⟨hv, hn ▸ hj⟩, List.getElem?_eq_getElem hj]
  · rw [outByte_of_stored hout hlen, if_neg (by omega)]
  · rw [hout, Memory.read_writeBytes, dif_neg (by omega)]

end Sys2Proof.Machine

namespace Sys2Proof.Proofs

open Sys2Proof.Machine

/-- Settles O33: an error is taken by the error completion, and every other end is a successful one. -/
theorem commandCompletion : Obligations.CommandCompletion := by
  intro i s hi
  obtain ⟨t, ht, hends⟩ := execCommand_ends s hi
  refine ⟨t, ht, ?_⟩
  cases hends with
  | failed i e => exact ⟨rfl, .inr ⟨errorCode_mem e.kind, failedWith_fail s e⟩⟩
  | encoded e _ => exact ⟨rfl, .inl (succeed_completes rfl)⟩
  | decoded d _ => exact ⟨rfl, .inl (succeed_completes rfl)⟩
  | cleared => exact ⟨rfl, .inl (succeed_completes rfl)⟩

/-- Settles O34: the artifact fits OUT, so every register holds its number, and its bytes are readable. -/
theorem encodeSucceeds : Obligations.EncodeSucceeds := by
  intro s h0 hin hfit e
  have he : e = encodeText s.input := rfl
  clear_value e
  rw [← he] at hfit
  have hok : encodeResult s = .ok e :=
    (encodeResult_ok_iff s e).2 ⟨hin, Nat.ne_of_gt h0, he ▸ hfit, he⟩
  obtain ⟨-, hpad, hsym, hnode, hroot⟩ := encodeResult_ok_bounds hok
  have hincap := s.params.inCap_bounds
  have houtcap := s.params.outCap_bounds
  have htext : s.input.length ≤ 2 ^ 20 := by rw [State.input_length]; omega
  have hart : e.artifact.length = e.header.length + e.payload.length := List.length_append
  have hbits : e.payload.length = (e.bits.length + 7) / 8 := by
    rw [he, encodeText_payload_eq, pack_length]
  have hpadeq : e.pad = padLength e.bits.length := by rw [he]; rfl
  have hfreq : e.freq = frequencyTable s.input := by rw [he]; rfl
  have hcount : ∀ b : Fin 256, e.freq[b].toNat = s.input.count (BitVec.ofFin b) := by
    rw [hfreq]; exact frequencyTable_toNat htext
  have hsymeq : distinctCount e.freq = (distinctSymbols s.input).length := by
    rw [hfreq, distinctCount_frequencyTable htext]
  obtain ⟨hread, hbeyond⟩ := stored_out (t := (s.storeEncoding e).succeed) rfl rfl (by simp)
    (show e.artifact.length < 2 ^ 32 by omega)
  exact ⟨_, exec_encode_ok hok, rfl, rfl, rfl, rfl,
    completeStatus_validStatus s.status true true true true false, hread, hbeyond,
    (toNat_ofNat_of_lt (by omega)).trans hart, toNat_ofNat_of_lt (by omega),
    (toNat_ofNat_of_lt (by omega)).trans hpadeq, toNat_ofNat_of_lt (by omega),
    (toNat_ofNat_of_lt (by omega)).trans hsymeq, toNat_ofNat_of_lt (by omega),
    toNat_ofNat_of_lt (by omega), hcount, rfl, rfl⟩

/-- Settles O35: each check fails with its own error. -/
theorem encodeErrorsInOrder : Obligations.EncodeErrorsInOrder := fun s =>
  ⟨fun h => ⟨_, exec_encode_error (encodeResult_tooLong h), failedWith_fail s _⟩,
    fun h => ⟨_, exec_encode_error (encodeResult_empty h), failedWith_fail s _⟩,
    fun h0 hin hout =>
      ⟨_, exec_encode_error (encodeResult_overflow h0 hin hout), failedWith_fail s _⟩⟩

/-- Settles O36: header and bits are parts of IN, so every register holds its number. -/
theorem decodeSucceeds : Obligations.DecodeSucceeds := by
  intro s h text hin hp hd
  have hcap := s.params.inCap_bounds
  have hocap := s.params.outCap_bounds
  have hok := decodeResult_ok hin hp hd
  obtain ⟨htext, hpad, htable⟩ : text.length ≤ s.params.outCap ∧ h.pad ≤ 7 ∧ h.table.length ≤ 256 :=
    decodeResult_ok_bounds hok
  have hparts := parseHeader_length hp
  rw [State.input_length] at hparts
  have hbits := unpack_length h.payload h.pad
  have hlt : 8 * h.payload.length - h.pad < 2 ^ 32 := by omega
  obtain ⟨hread, hbeyond⟩ :=
    stored_out (t := (s.storeDecoding ⟨h, unpack h.payload h.pad, text⟩).succeed) rfl rfl (by simp)
      (show text.length < 2 ^ 32 by omega)
  refine ⟨_, exec_decode_ok hok, rfl, rfl, rfl, rfl,
    completeStatus_validStatus s.status true false false true false, hread, hbeyond,
    toNat_ofNat_of_lt (n := text.length) (by omega), toNat_ofNat_of_lt (n := h.pad) (by omega),
    toNat_ofNat_of_lt (n := h.length) (by omega), toNat_ofNat_of_lt (n := h.table.length) (by omega),
    rfl, rfl, ?_, rfl, rfl, rfl⟩
  rw [← hbits] at hlt ⊢
  exact toNat_ofNat_of_lt hlt

/-- Settles O37: each stage's first error is the command's. -/
theorem decodeErrorsInOrder : Obligations.DecodeErrorsInOrder := fun s =>
  ⟨fun h => ⟨_, exec_decode_error (decodeResult_tooLong h), failedWith_fail s _⟩,
    fun _ hin hp => ⟨_, exec_decode_error (decodeResult_header hin hp), failedWith_fail s _⟩,
    fun _ _ hin hp hd =>
      ⟨_, exec_decode_error (decodeResult_bits_error hin hp hd), failedWith_fail s _⟩⟩

/-- Settles O38: CLEAR's own writes, with STATUS bits 0 to 6 as its completion leaves them. -/
theorem clearCompletes : Obligations.ClearCompletes := by
  intro s
  have hstatus : successStatus (validStatus s.status false false false false) =
      (s.status &&& ~~~(0x7F#32)) ||| 0x02#32 :=
    completeStatus_validStatus s.status false false false false false
  rw [← hstatus]
  rfl

/-- Settles O39: an illegal command raises its error at once. -/
theorem illegalCommandFails : Obligations.IllegalCommandFails :=
  fun s w => ⟨_, rfl, failedWith_fail s (illegalCommandError w)⟩

end Sys2Proof.Proofs
end

section
/-! PROOFS. What a transaction does by its offset and the phase (40_command_interface.md rules R141 to R145). -/

namespace Sys2Proof.Machine

/-! ## Registers by their offset (R34, R49) -/

theorem regAt_some {off : Offset} {r : Reg} (h : regAt off = some r) : r.offset = off := by
  simpa using List.find?_some h

/-- Registers stand at multiples of 4 up to 0x38. -/
theorem Reg.offset_toNat_le (r : Reg) : r.offset.toNat ≤ 0x38 := by cases r <;> decide

/-- Every multiple of 4 up to 0x38 is a register's offset. -/
theorem exists_reg_offset {off : Offset} (h4 : off.toNat % 4 = 0) (hle : off.toNat ≤ 0x38) :
    ∃ r : Reg, r.offset = off := by
  have hall : ∀ k < 15, ∃ r ∈ Reg.all, r.offset.toNat = 4 * k := by decide
  obtain ⟨r, -, hr⟩ := hall (off.toNat / 4) (by omega)
  exact ⟨r, BitVec.eq_of_toNat_eq (by omega)⟩

theorem ite_ne {α : Type} {c : Prop} [Decidable c] {a b x : α} (ha : a ≠ x) (hb : b ≠ x) :
    (if c then a else b) ≠ x := by
  split
  · exact ha
  · exact hb

/-- A register is named by its own offset alone. -/
theorem region_ne_reg (p : Params) {off : Offset} {r : Reg} (h : off ≠ r.offset) :
    region p off ≠ some (.reg r) := by
  have hreg : (regAt off).map Region.reg ≠ some (.reg r) := fun hr => by
    obtain ⟨r', hr', ⟨⟩⟩ := Option.map_eq_some_iff.1 hr
    exact h (regAt_some hr').symm
  unfold region
  repeat' apply ite_ne
  case hb.ha => exact hreg
  all_goals exact nofun

/-! ## Offsets without a meaning, and read-only ones (R142, R143) -/

theorem regAt_eq_none {off : Offset} (h : 0x3C ≤ off.toNat) : regAt off = none :=
  Option.eq_none_iff_forall_ne_some.2 fun r hr => by
    have := r.offset_toNat_le
    rw [regAt_some hr] at this
    omega

/-- Nothing is named by a misaligned or unmapped offset (R49, R72, R75). -/
theorem region_of_misalignedOrUnmapped {p : Params} {off : Offset}
    (h : misalignedOrUnmapped p off) : region p off = none := by
  have hin := p.inCap_bounds
  have hout := p.outCap_bounds
  unfold region
  simp only
  by_cases h4 : off.toNat % 4 = 0
  · obtain h | h | h | h | h | h := h
    · exact absurd h4 h
    · rw [if_neg (by omega), if_pos (by omega), regAt_eq_none h.1, Option.map_none]
    iterate 3
      · repeat rw [if_neg (by omega)]
        exact if_pos (by omega)
    · repeat rw [if_neg (by omega)]
  · exact if_pos h4

/-- A write to a register other than CMD and IN_LEN is ignored (R142). -/
theorem writeRegion_reg {r : Reg} (hcmd : r ≠ .cmd) (hlen : r ≠ .inLen) (s : State) (data : Word) :
    s.writeRegion data (.reg r) = s := by
  obtain ⟨hr, -⟩ | ⟨hr, -⟩ | ⟨k, hr, -⟩ | h := writeRegion_cases s data (.reg r)
  · exact absurd (Region.reg.inj hr) hcmd
  · exact absurd (Region.reg.inj hr) hlen
  · cases hr
  · exact h

theorem writeRegion_of_readOnlyReg {p : Params} {off : Offset} (h4 : off.toNat % 4 = 0)
    (h : 0x4 ≤ off.toNat ∧ off.toNat ≤ 0xC ∨ 0x14 ≤ off.toNat ∧ off.toNat ≤ 0x38) :
    ∃ r, region p off = some r ∧ ∀ (s : State) (data : Word), s.writeRegion data r = s := by
  obtain ⟨r, rfl⟩ := exists_reg_offset h4 (by omega)
  refine ⟨_, region_reg p r, writeRegion_reg ?_ ?_⟩
  · rintro rfl; revert h; decide
  · rintro rfl; revert h; decide

/-- A read-only offset names something that a write does not change (R142). -/
theorem writeRegion_of_mappedReadOnly {p : Params} {off : Offset} (h : mappedReadOnly p off) :
    ∃ r, region p off = some r ∧ ∀ (s : State) (data : Word), s.writeRegion data r = s := by
  obtain ⟨h4, h | h | h | h | h⟩ := h
  · exact writeRegion_of_readOnlyReg h4 (.inl h)
  · exact writeRegion_of_readOnlyReg h4 (.inr h)
  · by_cases hc : off.toNat < 0x1400
    · exact ⟨_, region_freq p off ⟨(off.toNat - 0x1000) / 4, by omega⟩ (by simp only; omega),
        fun _ _ => rfl⟩
    · exact ⟨_, region_codeLen p off ⟨(off.toNat - 0x1400) / 4, by omega⟩ (by simp only; omega),
        fun _ _ => rfl⟩
  · by_cases hc : off.toNat < 0x4000
    · exact ⟨_, region_codeBits p off ⟨(off.toNat - 0x2000) / 32, by omega⟩
        ⟨(off.toNat - 0x2000) % 32 / 4, by omega⟩ (by simp only; omega), fun _ _ => rfl⟩
    · refine ⟨_, region_node p off ⟨(off.toNat - 0x4000) / 8, by omega⟩
        (decide ((off.toNat - 0x4000) % 8 = 4)) ?_, fun _ _ => rfl⟩
      simp only [decide_eq_true_eq]
      split_ifs <;> omega
  · exact ⟨_, region_out p off ((off.toNat - 0x200000) / 4) (by omega) (by omega), fun _ _ => rfl⟩

/-! ## Refusals (R143, R144) -/

section

variable {s : State} {off : Offset}

theorem execRead32_refused
    (h : region s.params off = none ∨ s.phase ≠ .idle ∧ region s.params off ≠ some (.reg .status)) :
    exec (.read32 off) s = .next s.refuseRead := by
  obtain ⟨he, -⟩ | ⟨r, hr, hp, -⟩ := execRead32_cases off s
  · exact he
  · simp only [hr, reduceCtorEq, false_or, ne_eq, Option.some.injEq] at h
    exact (hp.elim h.1 h.2).elim

theorem execWrite32_refused (data : Word) (h : region s.params off = none ∨ s.phase ≠ .idle) :
    exec (.write32 off data) s = .next s.refuseWrite := by
  obtain ⟨he, -⟩ | ⟨r, hr, hp, -⟩ := execWrite32_cases off data s
  · exact he
  · simp [hr, hp] at h

end

/-- STATUS is read in either phase (R140, R144). -/
theorem execRead32_status (s : State) :
    exec (.read32 Reg.status.offset) s = .next (s.answerRead s.status) := by
  obtain ⟨-, h | ⟨w, -, h⟩⟩ | ⟨r, hr, -, he⟩ := execRead32_cases Reg.status.offset s
  · simp at h
  · simp at h
  · obtain rfl : Region.reg .status = r := by simpa using hr
    exact he

/-- Acceptance writes BUSY and the word's low byte (R145). -/
theorem acceptStatus_eq (w : Word) : acceptStatus w = ((w &&& 0xFF#32) <<< 8) ||| 1#32 := by
  have hmask : (w.setWidth 8).setWidth 32 = w &&& 0xFF#32 := by
    refine BitVec.eq_of_toNat_eq ?_
    rw [BitVec.toNat_setWidth, BitVec.toNat_setWidth, BitVec.toNat_and]
    exact (Nat.mod_eq_of_lt (by omega)).trans (Nat.and_two_pow_sub_one_eq_mod w.toNat 8).symm
  rw [acceptStatus, hmask]

end Sys2Proof.Machine

namespace Sys2Proof.Proofs

open Sys2Proof.Machine

/-- Settles O27: CMD is mapped, and a write to it is the acceptance. -/
theorem cmdWriteIsAccepted : Obligations.CmdWriteIsAccepted := fun s w hp =>
  ⟨_, _, by rw [← acceptStatus_eq]; exact execWrite32_idle hp (region_reg s.params .cmd)⟩

/-- Settles O28: every read-only offset names something that a write leaves alone. -/
theorem readOnlyWriteIsIgnored : Obligations.ReadOnlyWriteIsIgnored := by
  intro s off data hp h
  obtain ⟨r, hr, hkeep⟩ := writeRegion_of_mappedReadOnly h
  rw [execWrite32_idle hp hr, hkeep]
  rfl

/-- Settles O29: the offset names nothing, so both transactions are refused. -/
theorem badOffsetGetsSlverr : Obligations.BadOffsetGetsSlverr := fun _ _ data h =>
  have hr := region_of_misalignedOrUnmapped h
  ⟨⟨_, _, execRead32_refused (.inl hr)⟩, execWrite32_refused data (.inl hr)⟩

/-- Settles O30: an offset other than STATUS's does not name STATUS. -/
theorem busyRefusesAllButStatusRead : Obligations.BusyRefusesAllButStatusRead := by
  intro s w hp
  have hbusy : s.phase ≠ .idle := by simp [hp]
  exact ⟨execRead32_status s,
    fun off hoff => ⟨_, _, execRead32_refused (.inr ⟨hbusy, region_ne_reg s.params hoff⟩)⟩,
    fun off data => execWrite32_refused data (.inr hbusy)⟩

end Sys2Proof.Proofs
end

section
/-! PROOFS. What the next step is: the engine's, the host's or none, and how an accepted command ends
(40_command_interface.md rules R146, R147, R149; 70_reset_and_hazards.md rules R321, R330, R331). -/

namespace Sys2Proof.Machine

/-! ## The end of a command (R148, R301) -/

theorem CommandEnds.completed {s t : State} {i : Instr} (h : CommandEnds s i t) :
    t.phase = .idle ∧ statusDone t.status = true ∧
      statusLastCmd t.status = statusLastCmd s.status := by
  obtain ⟨-, -, -, -, -, -, -, -, -, hidle, hlast⟩ := h.frame
  exact ⟨hidle, by cases h <;> simp, hlast⟩

/-! ## Events taken while BUSY (R144, R321) -/

/-- `u` is `s` after events taken while BUSY: `es` are still to come, and the engine waits for `k` more. Only
the bus side and the count of draws changed. -/
def tookEvents (s : State) (es : List Event) (k : Nat) (u : State) : Prop :=
  ∃ f r n, u = { s with
    pending := es, engineWait := k, hostFault := f, response := r, draws := n }

theorem tookEvents_refl (s : State) : tookEvents s s.pending s.engineWait s := ⟨_, _, _, rfl⟩

theorem tookEvents.trans {s u v : State} {es es' : List Event} {k k' : Nat}
    (h : tookEvents s es k u) (h' : tookEvents u es' k' v) : tookEvents s es' k' v := by
  obtain ⟨_, _, _, rfl⟩ := h
  obtain ⟨_, _, _, rfl⟩ := h'
  exact ⟨_, _, _, rfl⟩

theorem tookEvents.fields {s u : State} {es : List Event} {k : Nat} (h : tookEvents s es k u) :
    u.phase = s.phase ∧ u.pending = es ∧ u.engineWait = k := by
  obtain ⟨_, _, _, rfl⟩ := h
  exact ⟨rfl, rfl, rfl⟩

/-- A transaction while BUSY changes nothing but the bus side and the count of draws (R144). -/
theorem exec_txn_busy {s : State} {w : Word} (hp : s.phase = .busy w) (t : Txn) :
    ∃ u, exec t.instr s = .next u ∧ tookEvents s s.pending s.engineWait u := by
  cases t with
  | read32 off =>
    obtain ⟨r, d, n, he⟩ := Sys2Proof.Proofs.readHasNoSideEffect off s
    exact ⟨_, he, _, _, n, rfl⟩
  | write32 off data =>
    exact ⟨_, execWrite32_refused data (.inr (by simp [hp])), true, _, s.draws, rfl⟩

section

variable {s : State} {w : Word} {es : List Event} {k : Nat} (hp : s.phase = .busy w)

include hp

theorem step_busy_txn {t : Txn} (hq : s.pending = .txn t :: es) (hk : s.engineWait = k + 1) :
    ∃ u, step s = .next u ∧ tookEvents s es k u := by
  obtain ⟨u, hu, htook⟩ := exec_txn_busy (s := { s with pending := es, engineWait := k }) hp t
  exact ⟨u, (step_of_txn hq (.inr ⟨by simp [hp], hk⟩)).trans hu, htook⟩

theorem step_busy_reset (hq : s.pending = .reset :: es) (hk : s.engineWait ≠ 0) :
    ∃ t, step s = .next t ∧ t.phase = .idle := by
  obtain ⟨hi, -, -⟩ | ⟨_, -, hdue, -⟩ | ⟨_, _, _, hq', -, -⟩ | ⟨_, _, -, -, he⟩ := step_cases s
  · simp [hp] at hi
  · simp [hq, hk] at hdue
  · simp [hq] at hq'
  · exact ⟨_, he, rfl⟩

/-- The engine step that is due ends the command (R146). -/
theorem step_busy_engine (hdue : s.pending = [] ∨ s.engineWait = 0) :
    ∃ t, step s = .next t ∧ CommandEnds s (decodeCommand w) t := by
  rw [step_of_engineDue hp hdue]
  exact execCommand_ends s (commandWord_decodeCommand w)

end

/-! ## Runs while BUSY (R146, R330) -/

theorem core_run_one (s : State) : Sys2Proof.core.run 1 s = step s :=
  core_run_succ Sys2Proof.core rfl

/-- A run is its first step and then the rest. -/
theorem core_run_of_step (M : Host.Core) {n : Nat} {s t : M.State} (h : M.step s = .next t) :
    M.run (n + 1) s = M.run n t := by
  rw [Host.Core.run, h]

/-- An accepted command is over after at most its wait and one more step. -/
theorem run_busy_ends {s : State} {w : Word} (hp : s.phase = .busy w) :
    ∃ n t, 1 ≤ n ∧ n ≤ s.engineWait + 1 ∧ Sys2Proof.core.run n s = .next t ∧ t.phase = .idle := by
  induction hk : s.engineWait generalizing s with
  | zero =>
    obtain ⟨t, ht, hends⟩ := step_busy_engine hp (.inr hk)
    exact ⟨1, t, le_rfl, le_rfl, (core_run_one s).trans ht, hends.completed.1⟩
  | succ k ih =>
    cases hq : s.pending with
    | nil =>
      obtain ⟨t, ht, hends⟩ := step_busy_engine hp (.inl hq)
      exact ⟨1, t, le_rfl, by omega, (core_run_one s).trans ht, hends.completed.1⟩
    | cons e es =>
      cases e with
      | reset =>
        obtain ⟨t, ht, hidle⟩ := step_busy_reset hp hq (by omega)
        exact ⟨1, t, le_rfl, by omega, (core_run_one s).trans ht, hidle⟩
      | txn x =>
        obtain ⟨u, hu, f, r, n, rfl⟩ := step_busy_txn hp hq hk
        obtain ⟨m, t, -, hm, hrun, hidle⟩ := ih (s := { s with
          pending := es, engineWait := k, hostFault := f, response := r, draws := n }) hp rfl
        exact ⟨m + 1, t, by omega, by omega, (core_run_of_step _ hu).trans hrun, hidle⟩

/-- With no reset among them, the events that come before the engine step are taken one by one. -/
theorem run_busy_takes {s : State} {w : Word} (hp : s.phase = .busy w)
    (hreset : ∀ e, e ∈ s.pending.take s.engineWait → e ≠ .reset) :
    ∃ u, Sys2Proof.core.run (min s.engineWait s.pending.length) s = .next u ∧
      tookEvents s (s.pending.drop s.engineWait) (s.engineWait - s.pending.length) u := by
  induction hk : s.engineWait generalizing s with
  | zero => exact ⟨s, by rw [Nat.zero_min]; rfl, by simpa [hk] using tookEvents_refl s⟩
  | succ k ih =>
    cases hq : s.pending with
    | nil => exact ⟨s, rfl, by simpa [hk, hq] using tookEvents_refl s⟩
    | cons e es =>
      rw [hk, hq, List.take_succ_cons] at hreset
      cases e with
      | reset => exact absurd rfl (hreset .reset List.mem_cons_self)
      | txn x =>
        obtain ⟨u, hu, htook⟩ := step_busy_txn hp hq hk
        obtain ⟨hup, huq, huk⟩ := htook.fields
        obtain ⟨v, hv, htook'⟩ := ih (s := u) (hup.trans hp)
          (by rw [huq, huk]; exact fun e he => hreset e (List.mem_cons_of_mem _ he)) huk
        rw [huq] at hv htook'
        refine ⟨v, ?_, ?_⟩
        · rw [List.length_cons, Nat.succ_min_succ]
          exact (core_run_of_step _ hu).trans hv
        · rw [List.drop_succ_cons, List.length_cons, Nat.succ_sub_succ]
          exact htook.trans htook'

end Sys2Proof.Machine

namespace Sys2Proof.Proofs

open Sys2Proof.Machine

/-- Settles O5: the accepted word is decoded to its command. -/
theorem engineDispatchesByWord : Obligations.EngineDispatchesByWord := by
  intro s w hp hdue
  rw [step_of_engineDue hp hdue]
  refine ⟨?_, ?_, ?_, fun h1 h2 h3 => ?_⟩
  · rintro rfl; rfl
  · rintro rfl; rfl
  · rintro rfl; rfl
  · rw [decodeCommand, if_neg h1, if_neg h2, if_neg h3]

/-- Settles O8: no other thing a step can be fits an IDLE block with nothing pending. -/
theorem idleBlockWaits : Obligations.IdleBlockWaits := by
  intro s hp hq
  obtain ⟨-, -, he⟩ | ⟨w, hw, -, -⟩ | ⟨_, _, _, hq', -, -⟩ | ⟨_, _, hq', -, -⟩ := step_cases s
  · exact he
  · simp [hp] at hw
  · simp [hq] at hq'
  · simp [hq] at hq'

/-- Settles O10: each event taken while BUSY takes one off the engine's wait, and once the wait is over or no
event is left, the engine step ends the command. -/
theorem acceptedCommandCompletes : Obligations.AcceptedCommandCompletes := by
  intro s w hp
  refine ⟨run_busy_ends hp, fun hreset => ?_⟩
  obtain ⟨u, hrun, f, r, n, rfl⟩ := run_busy_takes hp hreset
  have hdue : s.pending.drop s.engineWait = [] ∨ s.engineWait - s.pending.length = 0 := by
    rw [List.drop_eq_nil_iff]; omega
  obtain ⟨t, ht, hends⟩ := step_busy_engine (s := { s with
    pending := s.pending.drop s.engineWait, engineWait := s.engineWait - s.pending.length,
    hostFault := f, response := r, draws := n }) hp hdue
  exact ⟨_, t, hrun, rfl, hp, rfl, rfl, fun _ => rfl, rfl, step_of_engineDue hp hdue, ht, hends.completed⟩

end Sys2Proof.Proofs
end

section
/-! PROOFS. The counters of the frequency table sum to the text's length (41_frequency_table.md rule R181). -/

namespace Sys2Proof.Machine

/-- Each member of a list over `Fin n` is counted at exactly one index. -/
theorem sum_count_finRange {n : Nat} (l : List (Fin n)) :
    ((List.finRange n).map fun i => l.count i).sum = l.length := by
  rw [← Fin.sum_univ_def]
  simpa only [Multiset.coe_count, Multiset.coe_card] using
    Multiset.sum_count_eq_card (m := (l : Multiset (Fin n))) fun i _ => Finset.mem_univ i

/-- A byte is one of the 256 symbols, so every position of the text is counted at exactly one of them. -/
theorem sum_count_ofFin (text : Bytes) :
    ((List.finRange 256).map fun s => text.count (BitVec.ofFin s)).sum = text.length := by
  have hcount (s : Fin (2 ^ 8)) : text.count (BitVec.ofFin s) = (text.map BitVec.toFin).count s :=
    (List.count_map_of_injective text _ (fun _ _ => BitVec.eq_of_toFin_eq) (BitVec.ofFin s)).symm
  simp only [hcount]
  exact (sum_count_finRange _).trans (List.length_map _)

end Sys2Proof.Machine

namespace Sys2Proof.Proofs

open Sys2Proof.Machine

/-- Settles O42: no counter overflows, so each is its symbol's count in the text. -/
theorem frequenciesCountTheText : Obligations.FrequenciesCountTheText := by
  intro text h
  have hcount := frequencyTable_toNat h
  refine ⟨hcount, fun s => ?_, ?_⟩
  · rw [hcount, List.count_pos_iff]
  · simp only [hcount]
    exact sum_count_ofFin text

end Sys2Proof.Proofs
end

section
/-! PROOFS. Selection takes the lowest pairs (NFREQ, index) of the collection (42_tree_builder.md rules R192,
R194). -/

namespace Sys2Proof.Machine

/-! ## Selection (R192) -/

/-- The pair (NFREQ, index) of R192, ordered lexicographically. -/
def selectionKey (arena : List Node) (i : Nat) : Nat ×ₗ Nat := toLex ((nodeFreq arena i).toNat, i)

theorem selectionKey_lt_iff (arena : List Node) (i j : Nat) :
    selectionKey arena i < selectionKey arena j ↔
      (nodeFreq arena i).toNat < (nodeFreq arena j).toNat ∨
        (nodeFreq arena i).toNat = (nodeFreq arena j).toNat ∧ i < j :=
  Prod.Lex.toLex_lt_toLex

theorem selectionKey_injective (arena : List Node) : Function.Injective (selectionKey arena) :=
  fun _ _ h => congrArg (fun p => (ofLex p).2) h

theorem selectedBefore_iff (arena : List Node) (i j : Nat) :
    selectedBefore arena i j = true ↔ selectionKey arena i < selectionKey arena j := by
  simp [selectedBefore, selectionKey_lt_iff, BitVec.toNat_inj]

theorem argmin_key_le {arena : List Node} {w : List Nat} {x : Nat} (h : argmin arena w = some x) :
    ∀ z ∈ w, selectionKey arena x ≤ selectionKey arena z := by
  induction w generalizing x with
  | nil => cases h
  | cons i w ih =>
    simp only [argmin] at h
    split at h
    · next hnone =>
      cases h
      rw [(argmin_eq_none_iff _ _).1 hnone]
      intro z hz
      rw [List.mem_singleton.1 hz]
    · next j hj =>
      split at h
      · next hij =>
        cases h
        have hlt := (selectedBefore_iff arena i j).1 hij
        exact List.forall_mem_cons.2 ⟨le_rfl, fun z hz => hlt.le.trans (ih hj z hz)⟩
      · next hij =>
        cases h
        have hle := not_lt.1 (mt (selectedBefore_iff arena i x).2 hij)
        exact List.forall_mem_cons.2 ⟨hle, ih hj⟩

theorem argmin_lowest {arena : List Node} {w : List Nat} {x z : Nat} (h : argmin arena w = some x)
    (hz : z ∈ w) (hne : z ≠ x) : selectionKey arena x < selectionKey arena z :=
  lt_of_le_of_ne (argmin_key_le h z hz) fun heq => hne (selectionKey_injective arena heq).symm

theorem selectTwo_eq_some_iff {arena : List Node} {w : List Nat} {x y : Nat} :
    selectTwo arena w = some (x, y) ↔
      argmin arena w = some x ∧ argmin arena (w.erase x) = some y := by
  unfold selectTwo
  split
  · next hx => simp [hx]
  · next x' hx =>
    split
    · next hy =>
      simp only [reduceCtorEq, hx, Option.some.injEq, false_iff, not_and]
      rintro rfl
      simp [hy]
    · next y' hy =>
      simp only [hx, Option.some.injEq, Prod.mk.injEq]
      exact and_congr_right fun h => by rw [← h, hy, Option.some.injEq]

/-- Nothing is selected from fewer than two, and only then (R194). -/
theorem selectTwo_eq_none_iff {arena : List Node} {w : List Nat} :
    selectTwo arena w = none ↔ w.length < 2 := by
  refine ⟨fun h => Nat.lt_succ_of_le (length_le_one_of_selectTwo h), fun hlen => ?_⟩
  refine Option.eq_none_iff_forall_ne_some.2 fun (x, y) hsel => ?_
  have := length_merged hsel 0
  simp only [List.length_append, List.length_singleton] at this
  omega

/-- The first selected has the lowest key, the second the lowest of the rest (R192). -/
theorem selectTwo_lowest {arena : List Node} {w : List Nat} {x y : Nat} (hw : w.Nodup)
    (h : selectTwo arena w = some (x, y)) :
    selectionKey arena x < selectionKey arena y ∧
      ∀ z ∈ w, z ≠ x → z ≠ y → selectionKey arena y < selectionKey arena z := by
  obtain ⟨hx, hy⟩ := selectTwo_eq_some_iff.1 h
  obtain ⟨hyx, hyw⟩ := hw.mem_erase_iff.1 (argmin_mem _ _ _ hy)
  exact ⟨argmin_lowest hx hyw hyx, fun z hz hzx hzy =>
    argmin_lowest hy (hw.mem_erase_iff.2 ⟨hzx, hz⟩) hzy⟩

end Sys2Proof.Machine

namespace Sys2Proof.Proofs

open Sys2Proof.Machine

/-- Settles O43: selection is by the least key in the lexicographic order, a linear one. -/
theorem selectionTakesTheLowest : Obligations.SelectionTakesTheLowest := by
  intro arena w hw
  simp only [← selectionKey_lt_iff]
  refine ⟨selectTwo_eq_none_iff, fun x y h => ?_⟩
  obtain ⟨hx, hy⟩ := selectTwo_mem h
  exact ⟨hx, List.mem_of_mem_erase hy, selectTwo_lowest hw h⟩

end Sys2Proof.Proofs
end

section
/-! PROOFS. What every merge keeps of the arena and the working collection, and the tree it ends with
(42_tree_builder.md rules R190 to R198). -/

namespace Sys2Proof.Machine

/-! ## The leaves (R190) -/

/-- The leaves are the distinct symbols in ascending value, each with its count. -/
theorem leaves_frequencyTable {text : Bytes} (h : text.length ≤ 2 ^ 20) :
    leaves (frequencyTable text) =
      (distinctSymbols text).map fun b => Node.ofSymbol (BitVec.ofNat 32 (text.count b)) b := by
  rw [leaves, distinctSymbols, List.filter_map, List.map_map, ← List.filterMap_eq_filter,
    List.map_filterMap]
  refine List.filterMap_congr fun s _ => ?_
  have hs := frequencyTable_ne_zero_iff h s
  by_cases hm : BitVec.ofFin s ∈ text
  · rw [if_pos (hs.2 hm)]
    simp [hm, Option.guard, frequencyTable]
  · rw [if_neg (mt hs.1 hm)]
    simp [hm, Option.guard]

theorem leaves_valid {text : Bytes} (h : text.length ≤ 2 ^ 20) :
    ∀ n ∈ leaves (frequencyTable text), n.valid = true := by
  rw [leaves_frequencyTable h]
  exact List.forall_mem_map.2 fun _ _ => rfl

theorem leaves_length {text : Bytes} (h : text.length ≤ 2 ^ 20) :
    (leaves (frequencyTable text)).length = (distinctSymbols text).length := by
  rw [leaves_frequencyTable h, List.length_map]

theorem leaves_ne_nil {text : Bytes} (hne : text ≠ []) (h : text.length ≤ 2 ^ 20) :
    leaves (frequencyTable text) ≠ [] := by
  obtain ⟨b, hb⟩ := List.exists_mem_of_ne_nil text hne
  rw [leaves_frequencyTable h, ne_eq, List.map_eq_nil_iff]
  exact List.ne_nil_of_mem (mem_distinctSymbols.2 hb)

theorem sum_count_distinctSymbols (text : Bytes) :
    ((distinctSymbols text).map fun b => text.count b).sum = text.length := by
  have hperm : (distinctSymbols text).Perm text.dedup :=
    (List.perm_ext_iff_of_nodup (distinctSymbols_nodup text) text.nodup_dedup).2 fun b => by
      rw [mem_distinctSymbols, List.mem_dedup]
  rw [(hperm.map _).sum_eq, List.sum_map_count_dedup_eq_length]

/-! ## A longer arena -/

theorem nodeFreq_append {arena : List Node} {i : Nat} (hi : i < arena.length) (more : List Node) :
    nodeFreq (arena ++ more) i = nodeFreq arena i := by
  rw [nodeFreq, nodeFreq, List.getD_append _ _ _ _ hi]

theorem selectedBefore_append {arena : List Node} {i j : Nat} (hi : i < arena.length)
    (hj : j < arena.length) (more : List Node) :
    selectedBefore (arena ++ more) i j = selectedBefore arena i j := by
  simp only [selectedBefore, nodeFreq_append hi, nodeFreq_append hj]

theorem argmin_append {arena : List Node} {w : List Nat} (hw : ∀ i ∈ w, i < arena.length)
    (more : List Node) : argmin (arena ++ more) w = argmin arena w := by
  induction w with
  | nil => rfl
  | cons i w ih =>
    obtain ⟨hi, hw⟩ := List.forall_mem_cons.1 hw
    simp only [argmin, ih hw]
    split
    · rfl
    · next j hj => rw [selectedBefore_append hi (hw j (argmin_mem _ _ _ hj))]

/-- New nodes at the end of the arena leave the selection among old ones alone. -/
theorem selectTwo_append {arena : List Node} {w : List Nat} (hw : ∀ i ∈ w, i < arena.length)
    (more : List Node) : selectTwo (arena ++ more) w = selectTwo arena w := by
  have hrest (x : Nat) : argmin (arena ++ more) (w.erase x) = argmin arena (w.erase x) :=
    argmin_append (fun i hi => hw i (List.mem_of_mem_erase hi)) more
  simp only [selectTwo, argmin_append hw more, hrest]

/-! ## One merge (R193, R194) -/

/-- The sum of the frequencies of a collection's nodes. -/
def collectionFreq (arena : List Node) (w : List Nat) : Nat :=
  (w.map fun i => (nodeFreq arena i).toNat).sum

/-- How often `j` is a child of an internal node. -/
def parentCount (arena : List Node) (j : Nat) : Nat :=
  (arena.map fun n =>
    if n.leaf then 0
    else (if n.left.toNat = j then 1 else 0) + (if n.right.toNat = j then 1 else 0)).sum

/-- Every internal node's frequency is the sum of its children's (R198). -/
def sumsOfChildren (arena : List Node) : Prop :=
  ∀ (i : Nat) (n : Node), arena[i]? = some n → n.leaf = false →
    n.nfreq.toNat = (nodeFreq arena n.left.toNat).toNat + (nodeFreq arena n.right.toNat).toNat

/-- What every merge keeps: the collection is a forest that holds the whole text, internal nodes hold their
children's sums, and every index of the arena either is in the collection or has its one parent. -/
structure Merging (arena : List Node) (w : List Nat) (syms : List Byte) (total : Nat) : Prop
    extends Forest arena w syms where
  sums : sumsOfChildren arena
  freq : collectionFreq arena w = total
  oneParent : ∀ j, parentCount arena j + w.count j = if j < arena.length then 1 else 0

theorem selectTwo_perm {arena : List Node} {w : List Nat} {x y : Nat}
    (h : selectTwo arena w = some (x, y)) : w.Perm (x :: y :: (w.erase x).erase y) := by
  obtain ⟨hx, hy⟩ := selectTwo_mem h
  exact (List.perm_cons_erase hx).trans ((List.perm_cons_erase hy).cons x)

theorem nodeFreq_concat (arena : List Node) (n : Node) :
    nodeFreq (arena ++ [n]) arena.length = n.nfreq := by
  simp [nodeFreq]

theorem collectionFreq_perm (arena : List Node) {w w' : List Nat} (h : w.Perm w') :
    collectionFreq arena w = collectionFreq arena w' :=
  (h.map _).sum_eq

theorem collectionFreq_append {arena : List Node} {w : List Nat} (hw : ∀ i ∈ w, i < arena.length)
    (more : List Node) : collectionFreq (arena ++ more) w = collectionFreq arena w :=
  congrArg List.sum (List.map_congr_left fun i hi => by rw [nodeFreq_append (hw i hi)])

section

variable {arena : List Node} {w : List Nat} {syms : List Byte} {total x y : Nat}
  (h : Merging arena w syms total) (hsel : selectTwo arena w = some (x, y))

include h

theorem Merging.nodup : w.Nodup :=
  List.nodup_iff_count_le_one.2 fun j => by
    have := h.oneParent j
    split at this <;> omega

include hsel

theorem Merging.selected_lt : x < arena.length ∧ y < arena.length := by
  obtain ⟨hx, hy⟩ := selectTwo_mem hsel
  exact ⟨h.members x hx, h.members y (List.mem_of_mem_erase hy)⟩

theorem Merging.children :
    (mergedNode arena x y).left.toNat = x ∧ (mergedNode arena x y).right.toNat = y := by
  obtain ⟨hx, hy⟩ := h.selected_lt hsel
  have := h.size
  exact mergedNode_children (by omega) (by omega)

theorem Merging.freq_selected :
    (nodeFreq arena x).toNat + ((nodeFreq arena y).toNat +
      collectionFreq arena ((w.erase x).erase y)) = total := by
  rw [← h.freq, collectionFreq_perm arena (selectTwo_perm hsel)]
  rfl

/-- No counter overflows: a text's counts sum to at most 2^20 (R183). -/
theorem Merging.mergedNode_nfreq (ht : total < 2 ^ 32) :
    (mergedNode arena x y).nfreq.toNat = (nodeFreq arena x).toNat + (nodeFreq arena y).toNat := by
  have := h.freq_selected hsel
  exact (BitVec.toNat_add _ _).trans (Nat.mod_eq_of_lt (by omega))

theorem Merging.sums_merge (ht : total < 2 ^ 32) :
    sumsOfChildren (arena ++ [mergedNode arena x y]) := by
  obtain ⟨hx, hy⟩ := h.selected_lt hsel
  obtain ⟨hleft, hright⟩ := h.children hsel
  intro i n hi hn
  have hbound := (List.getElem?_eq_some_iff.1 hi).1
  rw [List.length_append, List.length_singleton] at hbound
  obtain hlt | rfl := Nat.lt_succ_iff_lt_or_eq.1 hbound
  · rw [List.getElem?_append_left hlt] at hi
    obtain ⟨hl, hr⟩ := h.ordered i n hi hn
    rw [nodeFreq_append (hl.trans hlt), nodeFreq_append (hr.trans hlt)]
    exact h.sums i n hi hn
  · obtain rfl := Option.some.inj (List.getElem?_concat_length.symm.trans hi)
    rw [hleft, hright, nodeFreq_append hx, nodeFreq_append hy]
    exact h.mergedNode_nfreq hsel ht

theorem Merging.freq_merge (ht : total < 2 ^ 32) :
    collectionFreq (arena ++ [mergedNode arena x y]) ((w.erase x).erase y ++ [arena.length]) =
      total := by
  have hrest : ∀ i ∈ (w.erase x).erase y, i < arena.length := fun i hi =>
    h.members i (List.mem_of_mem_erase (List.mem_of_mem_erase hi))
  rw [collectionFreq_perm _ List.perm_append_comm, ← h.freq_selected hsel, ← Nat.add_assoc,
    ← h.mergedNode_nfreq hsel ht, ← collectionFreq_append hrest [mergedNode arena x y],
    ← nodeFreq_concat arena (mergedNode arena x y)]
  rfl

/-- The selected indices leave the collection as they get their parent. -/
theorem Merging.oneParent_merge (j : Nat) :
    parentCount (arena ++ [mergedNode arena x y]) j +
        ((w.erase x).erase y ++ [arena.length]).count j =
      if j < (arena ++ [mergedNode arena x y]).length then 1 else 0 := by
  obtain ⟨hleft, hright⟩ := h.children hsel
  have hnew : parentCount (arena ++ [mergedNode arena x y]) j = parentCount arena j +
      ((if x = j then 1 else 0) + (if y = j then 1 else 0)) := by
    rw [parentCount, List.map_append, List.sum_append, List.map_singleton, List.sum_singleton, hleft,
      hright]
    rfl
  have hone := h.oneParent j
  rw [(selectTwo_perm hsel).count_eq] at hone
  simp only [List.count_cons, beq_iff_eq] at hone
  simp only [hnew, List.count_append, List.count_singleton, beq_iff_eq, List.length_append,
    List.length_singleton]
  split_ifs at hone ⊢ <;> omega

theorem Merging.merge (ht : total < 2 ^ 32) :
    Merging (arena ++ [mergedNode arena x y]) ((w.erase x).erase y ++ [arena.length]) syms total where
  toForest := h.toForest.merge hsel
  sums := h.sums_merge hsel ht
  freq := h.freq_merge hsel ht
  oneParent := h.oneParent_merge hsel

end

/-! ## The merge loop (R192 to R194) -/

theorem Merging.mergeLoop {arena : List Node} {w : List Nat} {syms : List Byte} {total : Nat}
    (h : Merging arena w syms total) (ht : total < 2 ^ 32) (fuel : Nat) :
    Merging (mergeLoop fuel arena w).1 (mergeLoop fuel arena w).2 syms total := by
  induction fuel generalizing arena w with
  | zero => exact h
  | succ fuel ih =>
    rw [Machine.mergeLoop]
    split
    · exact h
    · next hsel => exact ih (h.merge hsel ht)

theorem mergeLoop_of_selectTwo_none {arena : List Node} {w : List Nat} (h : selectTwo arena w = none)
    (fuel : Nat) : mergeLoop fuel arena w = (arena, w) := by
  cases fuel with
  | zero => rfl
  | succ fuel => rw [mergeLoop, h]

/-- The loop may stop after any number of merges and go on from there. -/
theorem mergeLoop_add (j k : Nat) (arena : List Node) (w : List Nat) :
    mergeLoop (j + k) arena w = mergeLoop k (mergeLoop j arena w).1 (mergeLoop j arena w).2 := by
  induction j generalizing arena w with
  | zero => rw [Nat.zero_add]; rfl
  | succ j ih =>
    rw [Nat.succ_add, mergeLoop, mergeLoop]
    split
    · next hsel => rw [mergeLoop_of_selectTwo_none hsel]
    · exact ih _ _

/-- The loop only adds internal nodes at the end of the arena (R193). -/
theorem mergeLoop_arena (fuel : Nat) (arena : List Node) (w : List Nat) :
    ∃ more, (mergeLoop fuel arena w).1 = arena ++ more ∧
      ∀ n ∈ more, n.leaf = false ∧ n.valid = true := by
  induction fuel generalizing arena w with
  | zero => exact ⟨[], (List.append_nil _).symm, by simp⟩
  | succ fuel ih =>
    rw [mergeLoop]
    split
    · exact ⟨[], (List.append_nil _).symm, by simp⟩
    · next x y _ =>
      obtain ⟨more, hmore, hnew⟩ :=
        ih (arena ++ [mergedNode arena x y]) ((w.erase x).erase y ++ [arena.length])
      exact ⟨mergedNode arena x y :: more, by rw [hmore, List.append_assoc]; rfl,
        List.forall_mem_cons.2 ⟨⟨rfl, rfl⟩, hnew⟩⟩

/-- Each merge takes one index off the collection, as long as two are left (R194). -/
theorem mergeLoop_collection_length {fuel : Nat} (arena : List Node) {w : List Nat}
    (h : fuel < w.length) : (mergeLoop fuel arena w).2.length + fuel = w.length := by
  induction fuel generalizing arena w with
  | zero => rfl
  | succ fuel ih =>
    rw [mergeLoop]
    split
    · next hsel => have := selectTwo_eq_none_iff.1 hsel; omega
    · next hsel =>
      have hlen := length_merged hsel arena.length
      rw [← Nat.add_assoc, ih _ (by omega), hlen]

/-- The newest node's index stands last in the collection. -/
theorem mergeLoop_getLast? (fuel : Nat) {arena : List Node} {w : List Nat}
    (h : w.getLast? = some (arena.length - 1)) :
    (mergeLoop fuel arena w).2.getLast? = some ((mergeLoop fuel arena w).1.length - 1) := by
  induction fuel generalizing arena w with
  | zero => exact h
  | succ fuel ih =>
    rw [mergeLoop]
    split
    · exact h
    · exact ih (by simp)

/-- A loop that has ended stays as it is. -/
theorem mergeLoop_ended {k : Nat} {arena : List Node} {w : List Nat}
    (h : (mergeLoop k arena w).2.length < 2) (j : Nat) :
    mergeLoop (k + j) arena w = mergeLoop k arena w := by
  rw [mergeLoop_add, mergeLoop_of_selectTwo_none (selectTwo_eq_none_iff.2 h)]

/-! ## The merges of a text's tree (R190 to R196) -/

/-- The arena and the working collection of buildTree after `k` merges. -/
def afterMerges (freq : Vector Word 256) (k : Nat) : List Node × List Nat :=
  mergeLoop k (leaves freq) (List.range (leaves freq).length)

theorem afterMerges_zero (freq : Vector Word 256) :
    afterMerges freq 0 = (leaves freq, List.range (leaves freq).length) := rfl

theorem collectionFreq_range (arena : List Node) :
    collectionFreq arena (List.range arena.length) = (arena.map fun n => n.nfreq.toNat).sum := by
  refine congrArg List.sum (List.ext_getElem (by simp) fun i hi _ => ?_)
  rw [List.length_map, List.length_range] at hi
  simp [nodeFreq, hi]

/-- The leaves hold the whole text, and nothing has a parent yet. -/
theorem leaves_merging {text : Bytes} (h : text.length ≤ 2 ^ 20) :
    Merging (leaves (frequencyTable text)) (List.range (leaves (frequencyTable text)).length)
      (distinctSymbols text) text.length where
  toForest := leaves_symbols h ▸ leaves_forest _
  sums i n hi hn := by
    rw [leaves_leaf (List.mem_of_getElem? hi)] at hn
    cases hn
  freq := by
    rw [collectionFreq_range, leaves_frequencyTable h, List.map_map, ← sum_count_distinctSymbols text]
    refine congrArg List.sum (List.map_congr_left fun b _ => toNat_ofNat_of_lt ?_)
    have : text.count b ≤ text.length := List.count_le_length
    omega
  oneParent j := by
    have hnone : parentCount (leaves (frequencyTable text)) j = 0 :=
      List.sum_eq_zero fun c hc => by
        obtain ⟨n, hn, rfl⟩ := List.mem_map.1 hc
        rw [if_pos (leaves_leaf hn)]
    rw [hnone, Nat.zero_add, List.count_range]

theorem afterMerges_merging {text : Bytes} (h : text.length ≤ 2 ^ 20) (k : Nat) :
    Merging (afterMerges (frequencyTable text) k).1 (afterMerges (frequencyTable text) k).2
      (distinctSymbols text) text.length :=
  (leaves_merging h).mergeLoop (by omega) k

section

variable {freq : Vector Word 256}

theorem afterMerges_collection_length {k : Nat} (hk : k < (leaves freq).length) :
    (afterMerges freq k).2.length + k = (leaves freq).length := by
  rw [afterMerges, mergeLoop_collection_length _ (by rwa [List.length_range]), List.length_range]

theorem afterMerges_arena_length {k : Nat} (hk : k < (leaves freq).length) :
    (afterMerges freq k).1.length = (leaves freq).length + k := by
  have hlen := mergeLoop_length k (leaves freq) (List.range (leaves freq).length)
  have hw := afterMerges_collection_length hk
  rw [List.length_range] at hlen
  rw [afterMerges] at hw ⊢
  omega

/-- Later merges only add nodes. -/
theorem afterMerges_arena_append (j k : Nat) :
    ∃ more, (afterMerges freq (j + k)).1 = (afterMerges freq j).1 ++ more := by
  rw [afterMerges, mergeLoop_add]
  obtain ⟨more, hmore, -⟩ := mergeLoop_arena k (afterMerges freq j).1 (afterMerges freq j).2
  exact ⟨more, hmore⟩

theorem afterMerges_succ {k x y : Nat}
    (h : selectTwo (afterMerges freq k).1 (afterMerges freq k).2 = some (x, y)) :
    afterMerges freq (k + 1) = ((afterMerges freq k).1 ++ [mergedNode (afterMerges freq k).1 x y],
      ((afterMerges freq k).2.erase x).erase y ++ [(afterMerges freq k).1.length]) := by
  rw [afterMerges, mergeLoop_add, ← afterMerges]
  simp only [mergeLoop, h]

variable (hne : leaves freq ≠ [])

include hne

/-- One merge less than there are leaves ends the loop, with the newest index alone (R194, R195). -/
theorem afterMerges_last :
    (afterMerges freq ((leaves freq).length - 1)).1 = (buildTree freq).arena ∧
      (afterMerges freq ((leaves freq).length - 1)).2 = [(buildTree freq).root] := by
  have hpos := List.length_pos_iff.2 hne
  have hone : (afterMerges freq ((leaves freq).length - 1)).2.length = 1 := by
    have := afterMerges_collection_length (Nat.sub_lt hpos Nat.one_pos)
    omega
  have hend : afterMerges freq (leaves freq).length = afterMerges freq ((leaves freq).length - 1) := by
    have := mergeLoop_ended (hone.trans_lt Nat.one_lt_two) 1
    rwa [Nat.sub_add_cancel hpos] at this
  obtain ⟨root, hroot⟩ := List.length_eq_one_iff.1 hone
  rw [buildTree, ← afterMerges, hend, hroot]
  exact ⟨rfl, rfl⟩

theorem buildTree_arena_length : (buildTree freq).arena.length = 2 * (leaves freq).length - 1 := by
  have hpos := List.length_pos_iff.2 hne
  have hlen := afterMerges_arena_length (Nat.sub_lt hpos Nat.one_pos)
  rw [(afterMerges_last hne).1] at hlen
  omega

theorem buildTree_root : (buildTree freq).root = 2 * (leaves freq).length - 2 := by
  have hpos := List.length_pos_iff.2 hne
  have hlast := mergeLoop_getLast? ((leaves freq).length - 1) (arena := leaves freq)
    (w := List.range (leaves freq).length) (by rw [List.getLast?_range, if_neg hpos.ne'])
  rw [← afterMerges, (afterMerges_last hne).1, (afterMerges_last hne).2, List.getLast?_singleton] at hlast
  have := Option.some.inj hlast
  have hlen := buildTree_arena_length hne
  omega

/-- Merge `k` makes node `m + k` of the tree from the two selected nodes (R193). -/
theorem buildTree_merge {k : Nat} (hk : k < (leaves freq).length - 1)
    (hmem : ∀ i ∈ (afterMerges freq k).2, i < (afterMerges freq k).1.length) :
    ∃ x y, selectTwo (buildTree freq).arena (afterMerges freq k).2 = some (x, y) ∧
      (buildTree freq).arena[(leaves freq).length + k]? = some (mergedNode (buildTree freq).arena x y) ∧
      (afterMerges freq (k + 1)).2 =
        ((afterMerges freq k).2.erase x).erase y ++ [(leaves freq).length + k] := by
  have hw := afterMerges_collection_length (freq := freq) (k := k) (by omega)
  have ha := afterMerges_arena_length (freq := freq) (k := k) (by omega)
  have htwo : selectTwo (afterMerges freq k).1 (afterMerges freq k).2 ≠ none :=
    mt selectTwo_eq_none_iff.1 (by omega)
  obtain ⟨⟨x, y⟩, hsel⟩ := Option.ne_none_iff_exists'.1 htwo
  obtain ⟨hx, hy⟩ := selectTwo_mem hsel
  have hsucc := afterMerges_succ hsel
  obtain ⟨more, hmore⟩ :=
    afterMerges_arena_append (freq := freq) (k + 1) ((leaves freq).length - 1 - (k + 1))
  rw [Nat.add_sub_cancel' hk, (afterMerges_last hne).1, hsucc, List.append_assoc] at hmore
  refine ⟨x, y, ?_, ?_, by rw [hsucc, ha]⟩
  · rw [hmore, selectTwo_append hmem, hsel]
  · have hxy : mergedNode (buildTree freq).arena x y = mergedNode (afterMerges freq k).1 x y := by
      rw [mergedNode, mergedNode, hmore, nodeFreq_append (hmem x hx),
        nodeFreq_append (hmem y (List.mem_of_mem_erase hy))]
    rw [hxy, hmore, ← ha, List.getElem?_append_right le_rfl, Nat.sub_self]
    rfl

/-- The leaves stand first in the arena, and the nodes after them are internal (R190, R193). -/
theorem buildTree_arena_eq :
    ∃ more, (buildTree freq).arena = leaves freq ++ more ∧
      ∀ n ∈ more, n.leaf = false ∧ n.valid = true := by
  rw [← (afterMerges_last hne).1]
  exact mergeLoop_arena _ _ _

theorem leaf_iff_lt_leaves {i : Nat} {n : Node} (hi : (buildTree freq).arena[i]? = some n) :
    n.leaf = true ↔ i < (leaves freq).length := by
  obtain ⟨more, hmore, hnew⟩ := buildTree_arena_eq hne
  rw [hmore] at hi
  obtain hlt | hle := Nat.lt_or_ge i (leaves freq).length
  · rw [List.getElem?_append_left hlt] at hi
    exact iff_of_true (leaves_leaf (List.mem_of_getElem? hi)) hlt
  · rw [List.getElem?_append_right hle] at hi
    exact iff_of_false (by simp [hnew n (List.mem_of_getElem? hi)]) hle.not_gt

theorem buildTree_valid (hv : ∀ n ∈ leaves freq, n.valid = true) :
    ∀ n ∈ (buildTree freq).arena, n.valid = true := by
  obtain ⟨more, hmore, hnew⟩ := buildTree_arena_eq hne
  rw [hmore]
  exact List.forall_mem_append.2 ⟨hv, fun n hn => (hnew n hn).2⟩

end

/-! ## Depth (R198) -/

/-- Below node `i` a path grows by at most one bit for each internal index up to `i`. -/
theorem codesBelow_length_le {arena : List Node} {m : Nat} (ho : childrenBelow arena)
    (hm : ∀ (i : Nat) (n : Node), arena[i]? = some n → n.leaf = false → m ≤ i) (d : Nat) {i : Nat}
    (hi : i < arena.length) (path : Bits) :
    ∀ e ∈ codesBelow arena d i path, e.2.length ≤ path.length + (i + 1 - m) := by
  induction d generalizing i path with
  | zero => intro e he; cases he
  | succ d ih =>
    have hn := List.getElem?_eq_getElem hi
    intro e he
    cases hleaf : arena[i].leaf with
    | true =>
      rw [codesBelow_leaf hn hleaf, List.mem_singleton] at he
      rw [he]
      exact Nat.le_add_right _ _
    | false =>
      have hmi := hm _ _ hn hleaf
      have child (b : Bool) (j : Nat) (hj : j < i) (he : e ∈ codesBelow arena d j (path ++ [b])) :
          e.2.length ≤ path.length + (i + 1 - m) := by
        have := ih (hj.trans hi) (path ++ [b]) e he
        rw [List.length_append, List.length_singleton] at this
        omega
      obtain ⟨hl, hr⟩ := ho _ _ hn hleaf
      rw [codesBelow_internal hn hleaf, List.mem_append] at he
      exact he.elim (child false _ hl) (child true _ hr)

theorem codeList_length_le {tree : Tree} {m : Nat} (ho : childrenBelow tree.arena)
    (hm : ∀ (i : Nat) (n : Node), tree.arena[i]? = some n → n.leaf = false → m ≤ i)
    (hroot : tree.root < tree.arena.length) :
    ∀ e ∈ codeList tree, e.2.length ≤ max 1 (tree.root + 1 - m) := by
  intro e he
  simp only [codeList] at he
  split at he
  · rw [List.mem_singleton.1 he]
    exact le_max_left _ _
  · refine le_max_of_le_right ?_
    simpa using codesBelow_length_le ho hm _ hroot [] e he

end Sys2Proof.Machine

namespace Sys2Proof.Proofs

open Sys2Proof.Machine

/-- Settles O44: the leaves come first, each merge adds one internal node, and m - 1 merges leave the root. -/
theorem treeSizes : Obligations.TreeSizes := by
  intro text htext hlen
  have hne := leaves_ne_nil htext hlen
  simp only [← leaves_length hlen]
  refine ⟨List.length_pos_iff.2 hne, leaves_length_le _, buildTree_arena_length hne,
    buildTree_root hne, ?_, fun i hi => ⟨leaf_iff_lt_leaves hne (List.getElem?_eq_getElem hi),
      buildTree_valid hne (leaves_valid hlen) _ (List.getElem_mem hi)⟩, fun i hi => ?_⟩
  · obtain ⟨more, hmore, -⟩ := buildTree_arena_eq hne
    rw [hmore, List.take_left, leaves_frequencyTable hlen]
    rfl
  · simp [nodeTable, List.getD, List.getElem?_eq_none hi]

/-- Settles O45: the collections are those after each merge; sums and parents hold of the leaves and every
merge keeps them, and a path passes at most the m - 1 internal nodes. -/
theorem treeShape : Obligations.TreeShape := by
  intro text htext hlen
  have hne := leaves_ne_nil htext hlen
  have hroot := buildTree_root hne
  have htree := afterMerges_merging hlen ((leaves (frequencyTable text)).length - 1)
  obtain ⟨hendA, hendW⟩ := afterMerges_last hne
  rw [hendA, hendW] at htree
  simp only [← leaves_length hlen]
  refine ⟨⟨fun k => (afterMerges (frequencyTable text) k).2, by simp only [afterMerges_zero], hendW,
    fun k hk => ?_⟩, ?_, fun i hi hleaf => ?_, fun j hj hjroot => ?_, fun e he h2 => ?_⟩
  · have hinv := afterMerges_merging hlen k
    exact ⟨hinv.nodup, buildTree_merge hne hk hinv.members⟩
  · simpa [collectionFreq] using htree.freq
  · have hn := List.getElem?_eq_getElem hi
    obtain ⟨hl, hr⟩ := htree.ordered i _ hn hleaf
    exact ⟨hl, hr, htree.sums i _ hn hleaf⟩
  · have hone := htree.oneParent j
    rwa [if_pos hj, List.count_eq_zero.2 (by simpa using hjroot), Nat.add_zero] at hone
  · have hinternal : ∀ (i : Nat) (n : Node), (buildTree (frequencyTable text)).arena[i]? = some n →
        n.leaf = false → (leaves (frequencyTable text)).length ≤ i := fun i n hi hn =>
      not_lt.1 (mt (leaf_iff_lt_leaves hne hi).2 (by simp [hn]))
    have := codeList_length_le htree.ordered hinternal (htree.members _ List.mem_cons_self) e he
    omega

end Sys2Proof.Proofs
end

section
/-! PROOFS. The codes are the paths to the leaves: prefix-free, complete, 1 to 255 bits long and stored in the CODE
table (43_code_table.md rules R210 to R215). -/

namespace Sys2Proof.Machine

/-! ## The code list of a tree (R210, R211) -/

theorem codeList_of_leaf {tree : Tree} {n : Node} (hn : tree.arena[tree.root]? = some n)
    (hleaf : n.leaf = true) : codeList tree = [(n.sym, [false])] := by
  simp [codeList, List.getD, hn, hleaf]

theorem codeList_of_internal {tree : Tree} {n : Node} (hn : tree.arena[tree.root]? = some n)
    (hleaf : n.leaf = false) :
    codeList tree = codesBelow tree.arena tree.arena.length tree.root [] := by
  simp [codeList, List.getD, hn, hleaf]

/-! ## The paths below a node (R210) -/

/-- A code below a node is the path to the node and then one that leads on to the symbol's leaf. -/
theorem codesBelow_path {arena : List Node} (ho : childrenBelow arena) (d : Nat) {i : Nat}
    (hi : i < arena.length) (path : Bits) :
    ∀ e ∈ codesBelow arena d i path, ∃ c, e.2 = path ++ c ∧ pathLeadsTo arena i c e.1 := by
  induction d generalizing i path with
  | zero => intro e he; cases he
  | succ d ih =>
    have hn := List.getElem?_eq_getElem hi
    intro e he
    cases hleaf : arena[i].leaf with
    | true =>
      rw [codesBelow_leaf hn hleaf, List.mem_singleton] at he
      exact ⟨[], by rw [he, List.append_nil], _, hn, hleaf, by rw [he]⟩
    | false =>
      obtain ⟨hl, hr⟩ := ho _ _ hn hleaf
      rw [codesBelow_internal hn hleaf, List.mem_append] at he
      obtain he | he := he
      · obtain ⟨c, hc, hpath⟩ := ih (hl.trans hi) _ e he
        exact ⟨false :: c, by rw [hc, List.append_assoc]; rfl, _, hn, hleaf, hpath⟩
      · obtain ⟨c, hc, hpath⟩ := ih (hr.trans hi) _ e he
        exact ⟨true :: c, by rw [hc, List.append_assoc]; rfl, _, hn, hleaf, hpath⟩

/-! ## Prefix-freeness (R214) -/

/-- Two codes that part after a common path do not conflict: neither is a prefix of the other. -/
theorem prefixConflict_of_parted (path c c' : Bits) :
    prefixConflict (path ++ [false] ++ c) (path ++ [true] ++ c') = false := by
  simp [prefixConflict, List.isPrefixOf_iff_prefix, ← Bool.not_eq_true, List.prefix_append_right_inj]

theorem codesBelow_noConflict {arena : List Node} (ho : childrenBelow arena) (d : Nat) {i : Nat}
    (hi : i < arena.length) (path : Bits) :
    (codesBelow arena d i path).Pairwise fun e f => prefixConflict e.2 f.2 = false := by
  induction d generalizing i path with
  | zero => exact List.Pairwise.nil
  | succ d ih =>
    have hn := List.getElem?_eq_getElem hi
    cases hleaf : arena[i].leaf with
    | true =>
      rw [codesBelow_leaf hn hleaf]
      exact List.pairwise_singleton _ _
    | false =>
      obtain ⟨hl, hr⟩ := ho _ _ hn hleaf
      rw [codesBelow_internal hn hleaf]
      refine List.pairwise_append.2 ⟨ih (hl.trans hi) _, ih (hr.trans hi) _, fun e he f hf => ?_⟩
      obtain ⟨c, hc, -⟩ := codesBelow_path ho d (hl.trans hi) _ e he
      obtain ⟨c', hc', -⟩ := codesBelow_path ho d (hr.trans hi) _ f hf
      rw [hc, hc']
      exact prefixConflict_of_parted path c c'

theorem codeList_noConflict {tree : Tree} (ho : childrenBelow tree.arena)
    (hroot : tree.root < tree.arena.length) :
    (codeList tree).Pairwise fun e f => prefixConflict e.2 f.2 = false := by
  have hn := List.getElem?_eq_getElem hroot
  cases hleaf : tree.arena[tree.root].leaf with
  | true =>
    rw [codeList_of_leaf hn hleaf]
    exact List.pairwise_singleton _ _
  | false =>
    rw [codeList_of_internal hn hleaf]
    exact codesBelow_noConflict ho _ hroot []

theorem prefixFree_iff {codes : CodeList} : prefixFree codes = true ↔
    (codes.map Prod.fst).Nodup ∧ codes.Pairwise fun e f => prefixConflict e.2 f.2 = false := by
  rw [prefixFree, decide_eq_true_eq, List.pairwise_and_iff, List.Nodup, List.pairwise_map]

/-! ## Kraft's equality (R215) -/

/-- Kraft's sum of a code list, scaled by `2 ^ depth`: a code of that length counts 1 (R215). -/
def kraftSum (depth : Nat) (codes : CodeList) : Nat := (codes.map fun e => 2 ^ (depth - e.2.length)).sum

theorem kraftSum_append (depth : Nat) (codes more : CodeList) :
    kraftSum depth (codes ++ more) = kraftSum depth codes + kraftSum depth more := by
  rw [kraftSum, List.map_append, List.sum_append]
  rfl

/-- The codes below a node share out the node's part of the whole: each child has half of it. As each internal
index up to `i` adds at most one bit, `depth` is large enough for every code. -/
theorem kraftSum_codesBelow {arena : List Node} {m depth : Nat} (ho : childrenBelow arena)
    (hm : ∀ (i : Nat) (n : Node), arena[i]? = some n → n.leaf = false → m ≤ i) {d i : Nat}
    (hi : i < arena.length) (hd : i < d) (path : Bits) (hpath : path.length + (i + 1 - m) ≤ depth) :
    kraftSum depth (codesBelow arena d i path) = 2 ^ (depth - path.length) := by
  induction d generalizing i path with
  | zero => exact absurd hd (Nat.not_lt_zero i)
  | succ d ih =>
    have hn := List.getElem?_eq_getElem hi
    cases hleaf : arena[i].leaf with
    | true => simp [codesBelow_leaf hn hleaf, kraftSum]
    | false =>
      have hmi := hm _ _ hn hleaf
      obtain ⟨hl, hr⟩ := ho _ _ hn hleaf
      have child (b : Bool) (j : Nat) (hj : j < i) :
          kraftSum depth (codesBelow arena d j (path ++ [b])) = 2 ^ (depth - path.length - 1) := by
        rw [ih (hj.trans hi) (by omega) _ (by rw [List.length_append, List.length_singleton]; omega),
          List.length_append, List.length_singleton, Nat.sub_sub]
      rw [codesBelow_internal hn hleaf, kraftSum_append, child false _ hl, child true _ hr, ← two_mul,
        ← pow_succ', Nat.sub_add_cancel (by omega)]

/-! ## The codes of a text -/

theorem encodeText_tree_eq (text : Bytes) : (encodeText text).tree = buildTree (frequencyTable text) := by
  simp only [encodeText]

theorem codeList_encodeText_tree (text : Bytes) :
    codeList (encodeText text).tree = (encodeText text).codes := by
  simp only [encodeText]

theorem distinctSymbols_length_le (text : Bytes) : (distinctSymbols text).length ≤ 256 :=
  (List.length_filter_le _ _).trans_eq (by rw [List.length_map, List.length_finRange])

section

variable {text : Bytes} (hne : text ≠ []) (hlen : text.length ≤ 2 ^ 20)

include hne hlen

theorem encodeText_tree_forest :
    Forest (encodeText text).tree.arena [(encodeText text).tree.root] (distinctSymbols text) := by
  rw [encodeText_tree_eq, ← leaves_symbols hlen]
  exact buildTree_forest (leaves_ne_nil hne hlen)

theorem encodeText_tree_root :
    (encodeText text).tree.root = 2 * (distinctSymbols text).length - 2 := by
  rw [encodeText_tree_eq, ← leaves_length hlen, buildTree_root (leaves_ne_nil hne hlen)]

theorem encodeText_leaf_iff {i : Nat} {n : Node} (hi : (encodeText text).tree.arena[i]? = some n) :
    n.leaf = true ↔ i < (distinctSymbols text).length := by
  rw [encodeText_tree_eq] at hi
  rw [← leaves_length hlen]
  exact leaf_iff_lt_leaves (leaves_ne_nil hne hlen) hi

theorem encodeText_internal_ge (i : Nat) (n : Node) (hi : (encodeText text).tree.arena[i]? = some n)
    (hleaf : n.leaf = false) : (distinctSymbols text).length ≤ i :=
  not_lt.1 (mt (encodeText_leaf_iff hne hlen hi).2 (by simp [hleaf]))

/-- One distinct symbol has the code "0" (R211). -/
theorem encodeText_codes_of_one {s : Byte} (hs : distinctSymbols text = [s]) :
    (encodeText text).codes = [(s, [false])] := by
  have hroot := (encodeText_tree_forest hne hlen).members _ List.mem_cons_self
  have hn := List.getElem?_eq_getElem hroot
  have hleaf := (encodeText_leaf_iff hne hlen hn).2 (by simp [encodeText_tree_root hne hlen, hs])
  have hcodes := codeList_of_leaf hn hleaf
  rw [codeList_encodeText_tree] at hcodes
  have hsym := (encodeText_codes hne hlen).1
  rw [hcodes, hs] at hsym
  obtain rfl : _ = s := by simpa using hsym
  exact hcodes

/-- Two or more symbols have the paths below the root (R210). -/
theorem encodeText_codes_of_two_le (h2 : 2 ≤ (distinctSymbols text).length) :
    (encodeText text).codes = codesBelow (encodeText text).tree.arena
      (encodeText text).tree.arena.length (encodeText text).tree.root [] := by
  have hroot := (encodeText_tree_forest hne hlen).members _ List.mem_cons_self
  have hn := List.getElem?_eq_getElem hroot
  have hleaf := mt (encodeText_leaf_iff hne hlen hn).1 (by rw [encodeText_tree_root hne hlen]; omega)
  rw [← codeList_encodeText_tree, codeList_of_internal hn (Bool.eq_false_iff.2 hleaf)]

/-- A symbol of the text has its code, any other none (R214). -/
theorem encodeText_mem_iff (b : Byte) : b ∈ text ↔ ∃ c, (b, c) ∈ (encodeText text).codes := by
  rw [← mem_distinctSymbols, ← (encodeText_codes hne hlen).1.mem_iff, List.mem_map]
  exact ⟨fun ⟨e, he, hb⟩ => ⟨e.2, hb ▸ he⟩, fun ⟨c, hc⟩ => ⟨_, hc, rfl⟩⟩

theorem encodeText_codes_nodup : ((encodeText text).codes.map Prod.fst).Nodup :=
  (encodeText_codes hne hlen).1.nodup_iff.2 (distinctSymbols_nodup text)

theorem encodeText_prefixFree : prefixFree (encodeText text).codes = true := by
  have hforest := encodeText_tree_forest hne hlen
  have hpaths := codeList_noConflict hforest.ordered (hforest.members _ List.mem_cons_self)
  rw [codeList_encodeText_tree] at hpaths
  exact prefixFree_iff.2 ⟨encodeText_codes_nodup hne hlen, hpaths⟩

/-- A path passes at most the m - 1 ≤ 255 internal nodes (R198, R214). -/
theorem encodeText_code_length_le : ∀ e ∈ (encodeText text).codes, e.2.length ≤ 255 := by
  have hforest := encodeText_tree_forest hne hlen
  have hroot := encodeText_tree_root hne hlen
  have hm := distinctSymbols_length_le text
  have hpaths := codeList_length_le hforest.ordered (encodeText_internal_ge hne hlen)
    (hforest.members _ List.mem_cons_self)
  rw [codeList_encodeText_tree] at hpaths
  exact fun e he => (hpaths e he).trans (by omega)

theorem encodeText_codeLengthsLegal : codeLengthsLegal (encodeText text).codes = true := by
  simp only [codeLengthsLegal, List.all_eq_true, Bool.and_eq_true, decide_eq_true_eq]
  exact fun e he => ⟨List.length_pos_iff.2 ((encodeText_codes hne hlen).2 e he),
    encodeText_code_length_le hne hlen e he⟩

theorem encodeText_pathLeadsTo (h2 : 2 ≤ (distinctSymbols text).length) {b : Byte} {c : Bits}
    (hc : (b, c) ∈ (encodeText text).codes) :
    pathLeadsTo (encodeText text).tree.arena (encodeText text).tree.root c b := by
  have hforest := encodeText_tree_forest hne hlen
  rw [encodeText_codes_of_two_le hne hlen h2] at hc
  obtain ⟨_, rfl, hpath⟩ := codesBelow_path hforest.ordered _
    (hforest.members _ List.mem_cons_self) [] _ hc
  exact hpath

theorem encodeText_kraftSum (h2 : 2 ≤ (distinctSymbols text).length) :
    kraftSum 255 (encodeText text).codes = 2 ^ 255 := by
  have hforest := encodeText_tree_forest hne hlen
  have hroot := hforest.members _ List.mem_cons_self
  have hm := distinctSymbols_length_le text
  rw [encodeText_codes_of_two_le hne hlen h2]
  exact kraftSum_codesBelow hforest.ordered (encodeText_internal_ge hne hlen) hroot hroot []
    (by rw [encodeText_tree_root hne hlen, List.length_nil]; omega)

end

/-! ## The CODE table (R51, R210, R212) -/

theorem codeOf_length_le {codes : CodeList} (hnodup : (codes.map Prod.fst).Nodup) {k : Nat}
    (h : ∀ e ∈ codes, e.2.length ≤ k) (s : Byte) : (codeOf codes s).length ≤ k := by
  by_cases hs : s ∈ codes.map Prod.fst
  · obtain ⟨e, he, rfl⟩ := List.mem_map.1 hs
    rw [codeOf_of_mem hnodup he]
    exact h e he
  · rw [codeOf_of_not_mem hs]
    exact Nat.zero_le k

theorem codeTable_getElem (codes : CodeList) (b : Fin 256) :
    (codeTable codes)[b] = CodeEntry.ofBits (codeOf codes (BitVec.ofFin b)) := by
  simp [codeTable]

theorem CodeEntry.ofBits_nil : CodeEntry.ofBits [] = CodeEntry.absent := by
  have hbits : (BitVec.ofFnBE fun j : Fin 256 => ([] : Bits).getD j.val false) = 0 :=
    BitVec.eq_of_getMsbD_eq fun i hi => by simp [BitVec.getMsbD_ofFnBE, hi]
  rw [CodeEntry.ofBits, hbits]
  rfl

/-! ## Texts of one and of more symbols -/

/-- A text over one symbol has it as its one distinct symbol. -/
theorem distinctSymbols_replicate {n : Nat} (hn : 0 < n) (s : Byte) :
    distinctSymbols (List.replicate n s) = [s] := by
  refine List.perm_singleton.1 ((List.perm_ext_iff_of_nodup (distinctSymbols_nodup _)
    (List.nodup_singleton s)).2 fun b => ?_)
  rw [mem_distinctSymbols, List.mem_replicate, List.mem_singleton, and_iff_right hn.ne']

/-- A text with two different symbols has two or more. -/
theorem two_le_distinctSymbols {text : Bytes} {a b : Byte} (ha : a ∈ text) (hb : b ∈ text)
    (hab : a ≠ b) : 2 ≤ (distinctSymbols text).length := by
  have hsub : [a, b] ⊆ distinctSymbols text := by simp [mem_distinctSymbols, ha, hb]
  exact (List.subperm_of_subset (by simp [hab]) hsub).length_le

end Sys2Proof.Machine

namespace Sys2Proof.Proofs

open Sys2Proof.Machine

/-- Settles O46: the one leaf is the root, and the lookup finds its symbol alone. -/
theorem singleSymbolCode : Obligations.SingleSymbolCode := by
  intro s n hn hlen
  have hcodes := encodeText_codes_of_one (text := List.replicate n s)
    (mt (List.replicate_eq_nil_iff s).1 hn.ne') (by rwa [List.length_replicate])
    (distinctSymbols_replicate hn s)
  refine ⟨hcodes, fun b => ?_⟩
  rw [hcodes, codeTable_getElem]
  split
  · next hb => rw [codeOf, hb, List.lookup_cons_self, Option.getD_some]
  · next hb => rw [codeOf_of_not_mem (by simpa using hb), CodeEntry.ofBits_nil]

/-- Settles O47: a code is the path to a leaf, two paths part at an internal node, and there are at most 255 of
those to pass. -/
theorem codeTableGuarantees : Obligations.CodeTableGuarantees := by
  intro text hne hlen
  refine ⟨encodeText_mem_iff hne hlen, encodeText_prefixFree hne hlen,
    encodeText_codeLengthsLegal hne hlen, fun h2 b c => encodeText_pathLeadsTo hne hlen h2,
    fun b => ?_⟩
  rw [codeTable_getElem,
    CodeEntry.bits_ofBits _ (codeOf_length_le (encodeText_codes_nodup hne hlen)
      (encodeText_code_length_le hne hlen) _)]

/-- Settles O48: the root's part is the whole, and each internal node halves its own between its children. -/
theorem codeTableIsComplete : Obligations.CodeTableIsComplete := by
  intro text hlen ⟨a, b, ha, hb, hab⟩
  exact encodeText_kraftSum (List.ne_nil_of_mem ha) hlen (two_le_distinctSymbols ha hb hab)

end Sys2Proof.Proofs
end

section
/-! PROOFS. The packer: the least padding, each bit's place, and unpacking as its inverse, whatever the filler
(44_bit_packer.md). -/

namespace Sys2Proof.Machine

/-! ## Sizes -/

/-- Bits and padding are whole bytes (R221). -/
theorem add_padLength_mod (n : Nat) : (n + padLength n) % 8 = 0 := by
  rw [padLength]
  omega

/-- No smaller padding gives whole bytes (R221). -/
theorem padLength_le_of_aligned {n p : Nat} (h : (n + p) % 8 = 0) : padLength n ≤ p := by
  rw [padLength]
  omega

theorem padLength_eq_zero_iff (n : Nat) : padLength n = 0 ↔ n % 8 = 0 := by
  rw [padLength]
  omega

/-- The payload holds the bits and the filler exactly (R223). -/
theorem pack_bit_count (bits : Bits) :
    8 * (pack bits).length = bits.length + padLength bits.length := by
  rw [pack_byte_count]
  exact Nat.mul_div_cancel' (Nat.dvd_of_mod_eq_zero (add_padLength_mod _))

/-! ## The place of a bit -/

/-- Bit t of a byte, the most significant first, is bit 7 - t by weight. -/
theorem getMsbD_eq_getLsbD_of_lt (b : Byte) {t : Nat} (ht : t < 8) :
    b.getMsbD t = b.getLsbD (7 - t) := by
  simp [BitVec.getMsbD, ht]

/-- Bit t of byte j, the most significant first, is bit 8 * j + t of the string, or filler (R222). -/
theorem pack_getElem_getMsbD (bits : Bits) {j t : Nat} (hj : j < (pack bits).length) (ht : t < 8) :
    ((pack bits)[j]).getMsbD t = bits.getD (8 * j + t) false := by
  simp [pack, BitVec.getMsbD_ofFnBE, ht]

theorem byteBits_getElem? (b : Byte) {t : Nat} (ht : t < 8) :
    (byteBits b)[t]? = some (b.getMsbD t) := by
  simp [byteBits, ht]

/-- Bit i of a payload is bit i mod 8 of byte i div 8, the most significant first (R224). -/
theorem flatMap_byteBits_getElem? (payload : Bytes) (i : Nat) :
    (payload.flatMap byteBits)[i]? = payload[i / 8]?.map fun b => b.getMsbD (i % 8) := by
  induction payload generalizing i with
  | nil => rfl
  | cons b payload ih =>
    rw [List.flatMap_cons]
    rcases Nat.lt_or_ge i 8 with hi | hi
    · rw [List.getElem?_append_left (by simpa using hi), byteBits_getElem? b hi,
        Nat.div_eq_of_lt hi, Nat.mod_eq_of_lt hi, List.getElem?_cons_zero, Option.map_some]
    · obtain ⟨k, rfl⟩ := Nat.exists_eq_add_of_le' hi
      rw [List.getElem?_append_right (by simp), byteBits_length, Nat.add_sub_cancel, ih,
        Nat.add_div_right k (by decide), Nat.add_mod_right, List.getElem?_cons_succ]

/-- Unpacking answers a payload bit for every place before the last `pad` (R224). -/
theorem unpack_getElem? (payload : Bytes) {pad i : Nat} (h : i < 8 * payload.length - pad) :
    (unpack payload pad)[i]? = payload[i / 8]?.map fun b => b.getMsbD (i % 8) := by
  rw [unpack, List.getElem?_take_of_lt h, flatMap_byteBits_getElem?]

/-! ## The filler -/

/-- The first bits of a byte are what a shift by the number of the others leaves (R225). -/
theorem byteBits_take (b : Byte) {pad : Nat} (h : pad ≤ 8) :
    (byteBits b).take (8 - pad) =
      (List.range (8 - pad)).map fun t => (b >>> pad).getMsbD (pad + t) := by
  rw [byteBits, ← List.map_take, List.take_range, Nat.min_eq_left (Nat.sub_le 8 pad)]
  refine List.map_congr_left fun t ht => ?_
  have ht8 : pad + t < 8 := by
    have := List.mem_range.1 ht
    omega
  simp [BitVec.getMsbD_ushiftRight, ht8]

/-- Removing at most a byte's bits shortens the last byte only (R224). -/
theorem unpack_append_singleton (payload : Bytes) (b : Byte) {pad : Nat} (h : pad ≤ 8) :
    unpack (payload ++ [b]) pad = payload.flatMap byteBits ++ (byteBits b).take (8 - pad) := by
  have hall : (payload.flatMap byteBits).length = 8 * payload.length := by
    simp [List.length_flatMap, Nat.mul_comm]
  have hcount : 8 * (payload ++ [b]).length - pad =
      (payload.flatMap byteBits).length + (8 - pad) := by
    rw [hall, List.length_append, List.length_singleton]
    omega
  rw [unpack, hcount, List.flatMap_append, List.flatMap_singleton, List.take_length_add_append]

end Sys2Proof.Machine

namespace Sys2Proof.Proofs

open Sys2Proof.Machine

/-- Settles O49: the padding is arithmetic modulo 8, and packing cuts the aligned count into whole bytes. -/
theorem padLengthIsLeast : Obligations.PadLengthIsLeast := fun bits =>
  ⟨Nat.lt_succ_of_le (padLength_le _), add_padLength_mod _, fun _ => padLength_le_of_aligned,
    padLength_eq_zero_iff _, pack_bit_count bits⟩

/-- Settles O50: place i is bit i mod 8 of byte i div 8, whose bits packing takes from place 8 * (i div 8) on. -/
theorem packPlacesBits : Obligations.PackPlacesBits := by
  intro bits i hi
  have hj : i / 8 < (pack bits).length := Nat.div_lt_of_lt_mul hi
  have ht : i % 8 < 8 := Nat.mod_lt i (by decide)
  rw [List.getD_eq_getElem _ _ hj, ← getMsbD_eq_getLsbD_of_lt _ ht, pack_getElem_getMsbD bits hj ht,
    Nat.div_add_mod]

/-- Settles O51: the lengths agree, and each bit is read from the place it was packed in. -/
theorem unpackOfPack : Obligations.UnpackOfPack := by
  intro bits
  have hcount : 8 * (pack bits).length - padLength bits.length = bits.length := by
    rw [pack_bit_count, Nat.add_sub_cancel]
  refine List.ext_getElem? fun i => ?_
  rcases Nat.lt_or_ge i bits.length with hi | hi
  · have hj : i / 8 < (pack bits).length := by
      have := pack_bit_count bits
      omega
    rw [unpack_getElem? _ (hcount.symm ▸ hi), List.getElem?_eq_getElem hj, Option.map_some,
      pack_getElem_getMsbD bits hj (Nat.mod_lt i (by decide)), Nat.div_add_mod,
      List.getD_eq_getElem _ _ hi, List.getElem?_eq_getElem hi]
  · rw [List.getElem?_eq_none hi, List.getElem?_eq_none (by rwa [unpack_length, hcount])]

/-- Settles O52: the last byte's kept bits are those of its shift by the filler. -/
theorem fillerBitsAreIgnored : Obligations.FillerBitsAreIgnored := by
  intro payload b b' pad hpad hshift
  rw [unpack_append_singleton payload b hpad, unpack_append_singleton payload b' hpad,
    byteBits_take b hpad, byteBits_take b' hpad, hshift]

end Sys2Proof.Proofs
end

section
/-! PROOFS. Parsing a written header gives the codes back: the pairs stand in ascending value, so they are the code
list in another order (45_header_codec.md rules R240, R253). -/

namespace Sys2Proof.Machine

/-! ## The order of the pairs -/

theorem prefixConflict_comm (c d : Bits) : prefixConflict c d = prefixConflict d c :=
  Bool.or_comm _ _

section

variable {codes codes' : CodeList} (h : codes.Perm codes')

include h

theorem prefixFree_perm (hfree : prefixFree codes = true) : prefixFree codes' = true := by
  rw [prefixFree, decide_eq_true_eq] at hfree ⊢
  refine h.pairwise hfree fun {e f} hef => ?_
  rw [prefixConflict_comm]
  exact ⟨hef.1.symm, hef.2⟩

theorem codeLengthsLegal_perm (hlegal : codeLengthsLegal codes = true) :
    codeLengthsLegal codes' = true :=
  h.all_eq.symm.trans hlegal

theorem codeOf_perm (hnodup : (codes.map Prod.fst).Nodup) (s : Byte) :
    codeOf codes' s = codeOf codes s := by
  have hmap := h.map Prod.fst
  by_cases hs : s ∈ codes.map Prod.fst
  · obtain ⟨e, he, rfl⟩ := List.mem_map.1 hs
    rw [codeOf_of_mem hnodup he, codeOf_of_mem (hmap.nodup_iff.1 hnodup) (h.mem_iff.1 he)]
  · rw [codeOf_of_not_mem hs, codeOf_of_not_mem (mt hmap.mem_iff.2 hs)]

end

/-! ## The pad digit (R113) -/

theorem padDigit_writes {pad : Nat} (h : pad ≤ 7) :
    isDigit (BitVec.ofNat 8 (0x30 + pad)) = true ∧
      decimalValue [BitVec.ofNat 8 (0x30 + pad)] = pad := by
  have hbyte : (BitVec.ofNat 8 (0x30 + pad)).toNat = 0x30 + pad :=
    (BitVec.toNat_ofNat _ _).trans (Nat.mod_eq_of_lt (by omega))
  simp only [isDigit, decimalValue, List.foldl, hbyte, Bool.and_eq_true, decide_eq_true_eq]
  omega

end Sys2Proof.Machine

namespace Sys2Proof.Proofs

open Sys2Proof.Machine

/-- Settles O56: the written header is the grammar's text of the reordered code list, which passes every check the
code list passes and has the same codes. -/
theorem headerRoundTrip : Obligations.HeaderRoundTrip := by
  intro text payload pad hne hlen hpad hfits codes
  obtain ⟨hsyms, hcodes⟩ := encodeText_codes hne hlen
  have hperm : codes.Perm (headerPairs codes text) := (headerPairs_perm hsyms).symm
  have hcodeOf := codeOf_perm hperm (encodeText_codes_nodup hne hlen)
  have htext : serializeHeader codes pad = _ := serializeHeader_eq hsyms hcodes pad
  obtain ⟨hdigit, hvalue⟩ := padDigit_writes hpad
  rw [htext]
  refine ⟨headerPairs codes text, (parserAcceptsTheGrammar _ _).2 ?_, hcodeOf, ?_⟩
  · exact ⟨[BitVec.ofNat 8 (0x30 + pad)], List.cons_ne_nil _ _, by rw [List.all_cons, hdigit]; rfl,
      hvalue, hpad, hfits, prefixFree_perm hperm (encodeText_prefixFree hne hlen),
      codeLengthsLegal_perm hperm (encodeText_codeLengthsLegal hne hlen), rfl, rfl⟩
  · simp only [codeTable, hcodeOf]

end Sys2Proof.Proofs
end

section
/-! PROOFS. The offset of every header error: a failing parse records a place that it reached, and behind the pairs of
a table that passed the checks each check fails at its own (45_header_codec.md rules R241 to R250; 60_exceptions.md
rules R292, R294). -/

namespace Sys2Proof.Machine

/-! ## Where a parse can fail (R290, R294) -/

/-- The error is one of the header's, and records a place from `c` on: HEADER_PARSE any one up to the end, INVALID_BIT
that of a byte no code holds. -/
def Cursor.failsWithin (c : Cursor) (e : CmdError) : Prop :=
  ∃ d, d ≤ c.rest.length ∧
    (e = headerParseAt (c.pos + d) ∨
      e = invalidBitAt (c.pos + d) ∧ ∃ b, c.rest[d]? = some b ∧ b ≠ 0x30 ∧ b ≠ 0x31 ∧ b ≠ 0x20)

theorem Cursor.failsWithin_here (c : Cursor) : c.failsWithin (headerParseAt c.pos) :=
  ⟨0, Nat.zero_le _, .inl rfl⟩

theorem Cursor.failsWithin.behind {c c' : Cursor} {bs : Bytes} {e : CmdError}
    (h : c'.failsWithin e) (hm : c.movesPast bs c') : c.failsWithin e := by
  obtain ⟨hrest, hpos⟩ := hm
  obtain ⟨d, hd, he⟩ := h
  rw [hpos, Nat.add_assoc] at he
  refine ⟨bs.length + d, by rw [hrest, List.length_append]; omega, he.imp_right ?_⟩
  rintro ⟨he, b, hb, hno⟩
  exact ⟨he, b, by rwa [hrest, List.getElem?_append_right (Nat.le_add_right _ _), Nat.add_sub_cancel_left],
    hno⟩

theorem expectBytes_failsWithin {bs : Bytes} {c : Cursor} {e : CmdError}
    (h : expectBytes bs c = .error e) : c.failsWithin e := by
  obtain ⟨p, rfl, hle, hp⟩ := expectBytes_error bs c e h
  exact ⟨p - c.pos, by omega, .inl (by rw [Nat.add_sub_cancel' hle])⟩

theorem readSymbol_failsWithin {c : Cursor} {e : CmdError} (h : readSymbol c = .error e) :
    c.failsWithin e := by
  obtain ⟨rest, pos⟩ := c
  cases rest with
  | nil => cases h; exact Cursor.failsWithin_here _
  | cons s xs =>
    simp only [readSymbol] at h
    split at h
    · cases h
    · next he =>
      cases h
      exact (expectBytes_failsWithin he).behind (bs := [s]) ⟨rfl, rfl⟩

theorem readCode_failsWithin {bs : Bytes} {pos : Nat} {code : Bits} {e : CmdError}
    (h : readCode bs pos code = .error e) : Cursor.failsWithin ⟨bs, pos⟩ e := by
  induction bs generalizing pos code with
  | nil => cases h; exact Cursor.failsWithin_here _
  | cons x xs ih =>
    rw [readCode] at h
    split_ifs at h with hbit hlong hspace hempty
    · cases h; exact Cursor.failsWithin_here _
    · exact (ih h).behind (bs := [x]) ⟨rfl, rfl⟩
    · cases h
      obtain ⟨h0, h1⟩ := not_or.1 hbit
      exact ⟨0, Nat.zero_le _, .inr ⟨rfl, x, rfl, h0, h1, hspace⟩⟩
    · cases h; exact Cursor.failsWithin_here _

theorem insertPair_error {table : CodeList} {s : Byte} {code : Bits} {q : Nat} {e : CmdError}
    (h : insertPair table s code q = .error e) : e = headerParseAt q := by
  unfold insertPair at h
  split_ifs at h <;> cases h <;> rfl

/-- The insertion fails at the pair's symbol, any other piece of a pair at a place it reached. -/
theorem readPair_failsWithin {table : CodeList} {c : Cursor} {e : CmdError}
    (h : readPair table c = .error e) : c.failsWithin e := by
  unfold readPair at h
  split at h
  · next hs => cases h; exact readSymbol_failsWithin hs
  · next hs =>
    have hsym := readSymbol_ok_iff.1 hs
    split at h
    · next hc => cases h; exact (readCode_failsWithin hc).behind hsym
    · next hc =>
      have hcode := (readCode_ok_iff_movesPast.1 hc).1
      split at h
      · next hn => cases h; exact ((expectBytes_failsWithin hn).behind hcode).behind hsym
      · split at h
        · next hi => cases h; rw [insertPair_error hi]; exact Cursor.failsWithin_here c
        · cases h

theorem readPairs_failsWithin {fuel : Nat} {table : CodeList} {c : Cursor} {e : CmdError}
    (h : readPairs fuel table c = .error e) : c.failsWithin e := by
  induction fuel generalizing table c with
  | zero => cases h; exact Cursor.failsWithin_here c
  | succ fuel ih =>
    rw [readPairs] at h
    split at h
    · cases h
    · split at h
      · next hp => cases h; exact readPair_failsWithin hp
      · next hp =>
        obtain ⟨s, code, hm, -⟩ := readPair_ok_iff.1 hp
        exact (ih h).behind hm

/-- A missing digit and a pad above 7 fail at the place of the first digit, the fixed bytes where they differ. -/
theorem readPad_failsWithin {c : Cursor} {e : CmdError} (h : readPad c = .error e) :
    c.failsWithin e := by
  unfold readPad at h
  split at h
  · next he => cases h; exact expectBytes_failsWithin he
  · next c1 h1 =>
    have hspace := expectBytes_ok_iff_movesPast.1 h1
    have hfirst := (Cursor.failsWithin_here c1).behind hspace
    split at h
    · cases h; exact hfirst
    · split at h
      · have hread := readDigits_eq c1.rest c1.pos 0
        rw [Nat.zero_min] at hread
        simp only [hread] at h
        split at h
        · next h3 =>
          cases h
          exact ((expectBytes_failsWithin h3).behind
            ⟨List.takeWhile_append_dropWhile.symm, rfl⟩).behind hspace
        · split at h
          · cases h; exact hfirst
          · cases h
      · cases h; exact hfirst

/-- The pad is compared with the payload at the payload's start (R250). -/
theorem parseHeader_failsWithin {artifact : Bytes} {e : CmdError}
    (h : parseHeader artifact = .error e) : Cursor.failsWithin ⟨artifact, 0⟩ e := by
  unfold parseHeader at h
  split at h
  · next he => cases h; exact readPairs_failsWithin he
  · next ht =>
    obtain ⟨_, -, htable, -⟩ := (readPairs_ok_iff (Nat.lt_succ_self _) rfl).1 ht
    split at h
    · next he => cases h; exact (readPad_failsWithin he).behind htable
    · next hp =>
      obtain ⟨_, -, -, hpad⟩ := readPad_ok_iff.1 hp
      split at h
      · cases h; exact ((Cursor.failsWithin_here _).behind hpad).behind htable
      · cases h

/-- Every offset of an artifact fits ERR_INFO, so the recorded value is the place (R294). -/
theorem parseHeader_error {artifact : Bytes} {e : CmdError} (hn : artifact.length ≤ 2 ^ 20)
    (h : parseHeader artifact = .error e) :
    e.info.toNat ≤ artifact.length ∧
      (e.kind = .headerParse ∨
        e.kind = .invalidBit ∧ ∃ b, artifact[e.info.toNat]? = some b ∧
          b ≠ 0x30 ∧ b ≠ 0x31 ∧ b ≠ 0x20) := by
  obtain ⟨d, (hd : d ≤ artifact.length), he⟩ := parseHeader_failsWithin h
  rw [Nat.zero_add] at he
  have hinfo : (BitVec.ofNat 32 d).toNat = d := toNat_ofNat_of_lt (by omega)
  obtain rfl | ⟨rfl, hbyte⟩ := he
  · exact ⟨hinfo.trans_le hd, .inl rfl⟩
  · exact ⟨hinfo.trans_le hd, .inr ⟨rfl, by rwa [invalidBitAt, hinfo]⟩⟩

/-! ## Behind the pairs of a table -/

/-- The loop takes the pairs of a table that passes the checks, and has rounds enough left for the rest. -/
theorem readPairs_pairsText {fuel : Nat} {table more : CodeList} {c c' : Cursor}
    (hfuel : c.rest.length < fuel) (hm : c.movesPast (pairsText more) c')
    (hfree : prefixFree (table ++ more) = true) (hlegal : codeLengthsLegal more = true) :
    ∃ fuel', c'.rest.length < fuel' ∧
      readPairs fuel table c = readPairs fuel' (table ++ more) c' := by
  induction more generalizing fuel table c with
  | nil =>
    obtain rfl := Cursor.movesPast_unique hm (c2 := c) ⟨rfl, rfl⟩
    exact ⟨fuel, hfuel, by rw [List.append_nil]⟩
  | cons e more ih =>
    obtain ⟨s, code⟩ := e
    obtain ⟨c1, hpair, hm⟩ := Cursor.movesPast_append.1 hm
    obtain ⟨hlen, hlegal⟩ := (codeLengthsLegal_cons _ _ _).1 hlegal
    rw [List.append_cons] at hfree ⊢
    have hfit := (prefixFree_append_singleton.1 (prefixFree_of_append hfree)).2
    have hshort := rest_shorter_of_pair hpair
    obtain ⟨fuel, rfl⟩ := Nat.exists_eq_add_one_of_ne_zero (Nat.ne_zero_of_lt hfuel)
    rw [readPairs, if_neg (by simp [not_tableEnd_of_pair hpair.1]),
      readPair_ok_iff.2 ⟨s, code, hpair, hlen, hfit, rfl⟩]
    exact ih (by omega) hm hfree hlegal

section

variable {table : CodeList} (hfree : prefixFree table = true) (hlegal : codeLengthsLegal table = true)

include hfree hlegal

theorem readPairs_after_pairs (rest : Bytes) :
    ∃ fuel, readPairs ((pairsText table ++ rest).length + 1) [] ⟨pairsText table ++ rest, 0⟩ =
      readPairs (fuel + 1) table ⟨rest, (pairsText table).length⟩ := by
  obtain ⟨fuel, hfuel, h⟩ := readPairs_pairsText (table := []) (more := table)
    (c := ⟨pairsText table ++ rest, 0⟩) (c' := ⟨rest, (pairsText table).length⟩) (Nat.lt_succ_self _)
    ⟨rfl, (Nat.zero_add _).symm⟩ hfree hlegal
  obtain ⟨fuel, rfl⟩ := Nat.exists_eq_add_one_of_ne_zero (Nat.ne_zero_of_lt hfuel)
  exact ⟨fuel, h⟩

theorem headerFails_of_readPair {rest : Bytes} {kind : ErrorKind} {offset : Nat}
    (hend : rest.take 3 ≠ endText)
    (h : readPair table ⟨rest, (pairsText table).length⟩ =
      .error ⟨kind, BitVec.ofNat 32 ((pairsText table).length + offset)⟩) :
    headerFails table rest kind offset := by
  obtain ⟨fuel, hread⟩ := readPairs_after_pairs hfree hlegal rest
  have hnot : tableEnd ⟨rest, (pairsText table).length⟩ = false := decide_eq_false hend
  rw [headerFails, parseHeader, hread, readPairs, hnot, h]
  rfl

/-- Behind the table's `END` the parse goes on with the pad, and then compares it with the payload (R241). -/
theorem parseHeader_after_table (rest : Bytes) :
    parseHeader (pairsText table ++ (endText ++ rest)) =
      (readPad ⟨rest, (pairsText table).length + 3⟩).bind fun p =>
        if 8 * p.2.rest.length < p.1 then .error (headerParseAt p.2.pos)
        else .ok ⟨table, p.1, p.2.pos, p.2.rest⟩ := by
  obtain ⟨fuel, hread⟩ := readPairs_after_pairs hfree hlegal (endText ++ rest)
  have hpairs : readPairs (fuel + 1) table ⟨endText ++ rest, (pairsText table).length⟩ =
      .ok (table, ⟨rest, (pairsText table).length + 3⟩) :=
    (readPairs_of_tableEnd (tableEnd_iff.2 ⟨rfl, rfl⟩)).2 ⟨rfl, rfl, rfl⟩
  simp only [parseHeader, hread, hpairs]
  cases readPad ⟨rest, (pairsText table).length + 3⟩ <;> rfl

theorem headerFails_of_readPad {rest : Bytes} {kind : ErrorKind} {offset : Nat}
    (h : readPad ⟨rest, (pairsText table).length + 3⟩ =
      .error ⟨kind, BitVec.ofNat 32 ((pairsText table).length + offset)⟩) :
    headerFails table (endText ++ rest) kind offset := by
  rw [headerFails, parseHeader_after_table hfree hlegal, h]
  rfl

end

/-! ## The checks of a pair (R243 to R248) -/

/-- A SP as the second byte begins a pair. -/
theorem take_ne_endText_of_space {rest : Bytes} (h : rest[1]? = some 0x20#8) :
    rest.take 3 ≠ endText := by
  intro hend
  have hsecond := congrArg (·[1]?) hend
  rw [List.getElem?_take_of_lt (by decide), h] at hsecond
  exact absurd hsecond (by decide)

section

variable {table : CodeList} {s : Byte} {code : Bits} {pos : Nat} {e : CmdError}

theorem readCode_codeText {done : Bits} (rest : Bytes) (h : done.length + code.length ≤ 255) :
    readCode (codeText code ++ rest) pos done =
      readCode rest (pos + code.length) (done ++ code) := by
  induction code generalizing pos done with
  | nil => rw [List.append_nil]; rfl
  | cons b code ih =>
    rw [List.length_cons] at h
    have hread : readCode (codeText (b :: code) ++ rest) pos done =
        readCode (codeText code ++ rest) (pos + 1) (done ++ [b]) := by
      have hroom : done.length ≠ 255 := by omega
      cases b <;> exact if_neg hroom
    rw [hread, ih (by rw [List.length_append, List.length_singleton]; omega), List.append_assoc,
      List.length_cons, Nat.add_assoc, Nat.add_comm 1]
    rfl

theorem readCode_bit_of_full (b : Bool) (rest : Bytes) (h : code.length = 255) :
    readCode (codeText [b] ++ rest) pos code = .error (headerParseAt pos) := by
  cases b <;> exact if_pos h

theorem readCode_outside_alphabet {x : Byte} (rest : Bytes) (h0 : x ≠ 0x30#8)
    (h1 : x ≠ 0x31#8) (hs : x ≠ 0x20#8) :
    readCode (x :: rest) pos code = .error (invalidBitAt pos) :=
  (if_neg (not_or.2 ⟨h0, h1⟩)).trans (if_pos hs)

theorem readPair_of_symbol_error {rest : Bytes} {d : Nat} (h : differsAt dashesText rest d) :
    readPair table ⟨s :: rest, pos⟩ = .error (headerParseAt (pos + (1 + d))) := by
  have he := expectBytes_differs (c := ⟨rest, pos + 1⟩) h
  rw [dashesText, Nat.add_assoc] at he
  simp only [readPair, readSymbol, he]

theorem readSymbol_dashes (rest : Bytes) :
    readSymbol ⟨s :: (dashesText ++ codeText code ++ rest), pos⟩ =
      .ok (s, ⟨codeText code ++ rest, pos + 4⟩) :=
  readSymbol_ok_iff.2 ⟨rfl, rfl⟩

/-- The bits before the place where reading a code fails belong to it. -/
theorem readPair_of_code_error {rest : Bytes} (hlen : code.length ≤ 255)
    (h : readCode rest (pos + (4 + code.length)) code = .error e) :
    readPair table ⟨s :: (dashesText ++ codeText code ++ rest), pos⟩ = .error e := by
  rw [← Nat.add_assoc] at h
  have hc := (readCode_codeText (pos := pos + 4) (done := []) rest (by simpa using hlen)).trans h
  simp only [readPair, readSymbol_dashes, hc]

/-- Behind a code that a SP ends, the separator is read and then the pair inserted. -/
theorem readPair_of_code {rest : Bytes} (h1 : 1 ≤ code.length) (h255 : code.length ≤ 255)
    (hspace : rest.head? = some 0x20) :
    readPair table ⟨s :: (dashesText ++ codeText code ++ rest), pos⟩ =
      (expectNx ⟨rest, pos + (4 + code.length)⟩).bind fun c =>
        (insertPair table s code pos).map fun table' => (table', c) := by
  have hc : readCode (codeText code ++ rest) (pos + 4) [] =
      .ok (code, ⟨rest, pos + (4 + code.length)⟩) :=
    readCode_ok_iff_movesPast (c := ⟨codeText code ++ rest, pos + 4⟩).2
      ⟨⟨rfl, by rw [codeText, List.length_map, Nat.add_assoc]⟩, h1, h255, hspace⟩
  simp only [readPair, readSymbol_dashes, hc]
  cases expectNx ⟨rest, pos + (4 + code.length)⟩ with
  | error e => rfl
  | ok c => cases insertPair table s code pos <;> rfl

/-- The separator's own SP has ended the code, so a separator differs after it. -/
theorem readPair_of_separator_error {rest : Bytes} {d : Nat} (h1 : 1 ≤ code.length)
    (h255 : code.length ≤ 255) (hd : 1 ≤ d) (h : differsAt separatorText rest d) :
    readPair table ⟨s :: (dashesText ++ codeText code ++ rest), pos⟩ =
      .error (headerParseAt (pos + (4 + code.length + d))) := by
  have hspace : rest.head? = some 0x20 := by
    have hfirst := congrArg List.head? h.2.1
    rwa [List.head?_take, if_neg (by omega), List.head?_take, if_neg (by omega)] at hfirst
  have he : expectNx ⟨rest, pos + (4 + code.length)⟩ = _ := expectBytes_differs h
  rw [readPair_of_code h1 h255 hspace, he, Nat.add_assoc pos]
  rfl

theorem insertPair_of_not_fits {q : Nat} (h : ¬ fitsTable table s code) :
    insertPair table s code q = .error (headerParseAt q) := by
  cases hi : insertPair table s code q with
  | error e => rw [insertPair_error hi]
  | ok table' => exact absurd ((insertPair_ok_iff _ _ _ _ _).1 hi).1 h

theorem readPair_of_not_fits (rest : Bytes) (h1 : 1 ≤ code.length) (h255 : code.length ≤ 255)
    (h : ¬ fitsTable table s code) :
    readPair table ⟨pairText s code ++ rest, pos⟩ = .error (headerParseAt pos) := by
  have hn : expectNx ⟨separatorText ++ rest, pos + (4 + code.length)⟩ =
      .ok ⟨rest, pos + (4 + code.length) + 4⟩ := expectBytes_ok_iff_movesPast.2 ⟨rfl, rfl⟩
  have hassoc : pairText s code ++ rest =
      s :: (dashesText ++ codeText code ++ (separatorText ++ rest)) := by
    rw [pairText, List.cons_append, List.append_assoc]
  rw [hassoc, readPair_of_code h1 h255 rfl, hn, insertPair_of_not_fits h]
  rfl

end

/-! ## The checks of the pad (R249) -/

theorem readPad_of_no_space {rest : Bytes} (pos : Nat) (h : rest.head? ≠ some 0x20#8) :
    readPad ⟨rest, pos⟩ = .error (headerParseAt pos) := by
  have hfirst : differsAt [0x20#8] rest 0 := ⟨Nat.one_pos, rfl, by rwa [← List.head?_eq_getElem?]⟩
  simp only [readPad, expectBytes_differs (c := ⟨rest, pos⟩) hfirst, Nat.add_zero]

theorem readPad_of_no_digit {rest : Bytes} (pos : Nat) (h : noDigitFirst rest) :
    readPad ⟨0x20#8 :: rest, pos⟩ = .error (headerParseAt (pos + 1)) := by
  cases rest with
  | nil => rfl
  | cons x xs => exact if_neg (by simp [h x rfl])

section

variable {digits : Bytes} (hne : digits ≠ []) (hd : digits.all isDigit = true)

include hne hd

/-- Behind all of the digits ` END` is read, and then their value checked. -/
theorem readPad_of_digits {rest : Bytes} (pos : Nat) (hn : noDigitFirst rest) :
    readPad ⟨0x20#8 :: (digits ++ rest), pos⟩ =
      (expectBytes (0x20#8 :: endText) ⟨rest, pos + (1 + digits.length)⟩).bind fun c =>
        if 7 < decimalValue digits then .error (headerParseAt (pos + 1))
        else .ok (decimalValue digits, c) := by
  have hread := readDigits_of_movesPast (c := ⟨digits ++ rest, pos + 1⟩)
    (c' := ⟨rest, pos + (1 + digits.length)⟩) ⟨rfl, (Nat.add_assoc _ _ _).symm⟩ hd hn
  obtain ⟨x, xs, rfl⟩ := List.exists_cons_of_ne_nil hne
  have hfirst : isDigit x = true := List.all_eq_true.1 hd x List.mem_cons_self
  have hspace : expectBytes [0x20#8] ⟨0x20#8 :: (x :: (xs ++ rest)), pos⟩ =
      .ok ⟨x :: (xs ++ rest), pos + 1⟩ := rfl
  rw [List.cons_append] at hread ⊢
  simp only [readPad, hspace, hfirst, if_true, hread]
  rw [endText]
  cases expectBytes _ _ with
  | error e => rfl
  | ok c =>
    by_cases hv : 7 < decimalValue (x :: xs)
    · exact (if_pos (lt_min hv (by decide))).trans (if_pos hv).symm
    · rw [min_eq_left (by omega)]
      rfl

theorem readPad_of_padText (payload : Bytes) (pos : Nat) :
    readPad ⟨0x20#8 :: (digits ++ 0x20#8 :: (endText ++ payload)), pos⟩ =
      if 7 < decimalValue digits then .error (headerParseAt (pos + 1))
      else .ok (decimalValue digits, ⟨payload, pos + (1 + digits.length) + 4⟩) := by
  have hstop : noDigitFirst (0x20#8 :: (endText ++ payload)) := by
    rintro x ⟨⟩
    rfl
  exact readPad_of_digits hne hd pos hstop

end

end Sys2Proof.Machine

namespace Sys2Proof.Proofs

open Sys2Proof.Machine

/-- Settles O55: a failing parse records a place it reached, and behind the table's pairs the check that fails first
is evaluated where it stands. -/
theorem parserErrors : Obligations.ParserErrors := by
  refine ⟨rfl, fun artifact e hn h => parseHeader_error hn h, fun table hfree hlegal => ?_⟩
  have pair {rest kind offset} :=
    headerFails_of_readPair hfree hlegal (rest := rest) (kind := kind) (offset := offset)
  have pad {rest kind offset} :=
    headerFails_of_readPad hfree hlegal (rest := rest) (kind := kind) (offset := offset)
  refine ⟨pair (by decide) rfl, fun s rest d hend h => pair hend (readPair_of_symbol_error h),
    fun s c hlen => ?_, fun s c b rest hlen => ?_, fun s c x rest hlen h0 h1 hs => ?_,
    fun s rest => ?_, fun s c rest d h1 h255 hd h => ?_, fun s c rest h1 h255 h => ?_,
    fun rest h => pad (readPad_of_no_space _ h), fun rest h => pad (readPad_of_no_digit _ h),
    fun digits rest d hne hd hn h => ?_, fun digits payload hne hd hv => ?_,
    fun digits payload hne hd hv hlt => ?_⟩
  · -- the end inside a code
    rw [← List.append_nil (dashesText ++ codeText c)]
    exact pair (take_ne_endText_of_space rfl) (readPair_of_code_error hlen rfl)
  · -- a 256th code character
    rw [List.append_assoc]
    exact pair (take_ne_endText_of_space rfl) (readPair_of_code_error hlen.le
      ((readCode_bit_of_full b rest hlen).trans (by rw [hlen]; rfl)))
  · -- a byte outside the alphabet
    exact pair (take_ne_endText_of_space rfl)
      (readPair_of_code_error hlen (readCode_outside_alphabet rest h0 h1 hs))
  · -- the SP of an empty code
    exact pair (take_ne_endText_of_space rfl) (readPair_of_code_error (code := []) (Nat.zero_le _) rfl)
  · -- a byte that differs from the separator
    exact pair (take_ne_endText_of_space rfl) (readPair_of_separator_error h1 h255 hd h)
  · -- a repeated symbol or a conflicting code
    have hclash : ¬ fitsTable table s c := fun hfit => by
      rw [prefixFree_append_singleton.2 ⟨hfree, hfit⟩] at h
      cases h
    exact pair (take_ne_endText_of_space rfl) (readPair_of_not_fits rest h1 h255 hclash)
  · -- a byte that differs from ` END`
    have hpos : (pairsText table).length + 3 + (1 + digits.length) + d =
        (pairsText table).length + (4 + digits.length + d) := by omega
    refine pad ?_
    rw [readPad_of_digits hne hd _ hn, expectBytes_differs h, hpos]
    rfl
  · -- a pad above 7
    refine pad ?_
    rw [readPad_of_padText hne hd, if_pos hv]
    rfl
  · -- a pad above the payload's bits
    have hpos : (pairsText table).length + 3 + (1 + digits.length) + 4 =
        (pairsText table).length + (8 + digits.length) := by omega
    rw [headerFails, parseHeader_after_table hfree hlegal, readPad_of_padText hne hd,
      if_neg (Nat.not_lt.2 hv), hpos]
    exact if_pos hlt

end Sys2Proof.Proofs
end

section
/-! PROOFS. The decoder. The bits are the codes of a text and a tail that no code begins; on the codes the decoder
emits the text, on the tail it stops (46_decoder.md rules R270 to R273). -/

namespace Sys2Proof.Machine

/-! ## The codes of a table (R9, R248) -/

theorem prefixConflict_eq_false_iff {c d : Bits} :
    prefixConflict c d = false ↔ ¬ c <+: d ∧ ¬ d <+: c := by
  rw [prefixConflict, ← Bool.not_eq_true, Bool.or_eq_true, not_or, List.isPrefixOf_iff_prefix,
    List.isPrefixOf_iff_prefix]

section

variable {table : CodeList}

theorem code_ne_nil (hlegal : codeLengthsLegal table = true) {e : Byte × Bits} (he : e ∈ table) :
    e.2 ≠ [] := by
  have hlen := List.all_eq_true.1 hlegal e he
  rw [Bool.and_eq_true, decide_eq_true_eq] at hlen
  exact List.length_pos_iff.1 hlen.1

theorem not_code_prefix_nil (hlegal : codeLengthsLegal table = true) :
    ∀ e ∈ table, ¬ e.2 <+: [] :=
  fun _ he h => code_ne_nil hlegal he (List.prefix_nil.1 h)

theorem mem_of_codeOf_ne_nil {s : Byte} (hnodup : (table.map Prod.fst).Nodup)
    (h : codeOf table s ≠ []) : (s, codeOf table s) ∈ table := by
  obtain ⟨e, he, rfl⟩ := List.mem_map.1 (Decidable.not_imp_comm.1 codeOf_of_not_mem h)
  rw [codeOf_of_mem hnodup he]
  exact he

theorem matchCode_eq_none {cand : Bits} (h : ∀ e ∈ table, e.2 ≠ cand) :
    matchCode table cand = none := by
  rw [matchCode, List.find?_eq_none.2 fun e he => by simpa using h e he, Option.map_none]

variable (hfree : prefixFree table = true)

include hfree

/-- A code that begins another is that code (R248). -/
theorem eq_of_code_prefix {e f : Byte × Bits} (he : e ∈ table) (hf : f ∈ table) (h : e.2 <+: f.2) :
    e = f := by
  have hsymm : Std.Symm fun e f : Byte × Bits => prefixConflict e.2 f.2 = false :=
    ⟨fun e f => (prefixConflict_comm f.2 e.2).trans⟩
  exact by_contra fun hne =>
    (prefixConflict_eq_false_iff.1 ((prefixFree_iff.1 hfree).2.forall he hf hne)).1 h

theorem matchCode_of_mem {s : Byte} {c : Bits} (h : (s, c) ∈ table) : matchCode table c = some s := by
  cases hfind : table.find? fun e => decide (e.2 = c) with
  | none => exact absurd h fun h => by simpa using List.find?_eq_none.1 hfind _ h
  | some e =>
    have hc : e.2 = c := by simpa using List.find?_some hfind
    rw [matchCode, hfind, Option.map_some,
      eq_of_code_prefix hfree (List.mem_of_find?_eq_some hfind) h (hc ▸ List.prefix_refl _)]

end

/-! ## What the decoder does on a code and on a tail that no code begins (R270) -/

section

variable {cap : Nat} {table : CodeList}

/-- Once no code begins the candidate and the remaining bits, nothing is emitted any more (R272). -/
theorem decodeFrom_tail {bits cand : Bits} (h : ∀ e ∈ table, ¬ e.2 <+: cand ++ bits) (i start : Nat)
    (text : Bytes) : decodeFrom cap table bits i start cand text =
      if cand ++ bits = [] then .ok text else .error (truncatedAt start) := by
  induction bits generalizing i cand with
  | nil => rw [decodeFrom, List.append_nil]
  | cons b bs ih =>
    have hsplit : cand ++ b :: bs = (cand ++ [b]) ++ bs := List.append_cons ..
    rw [hsplit] at h ⊢
    rw [decodeFrom, matchCode_eq_none fun e he heq => h e he (heq ▸ List.prefix_append _ _)]
    exact ih h (i + 1)

variable (hfree : prefixFree table = true)

include hfree

/-- At the end of a code its symbol is emitted, if OUT has room for it, and not before (R270, R273). -/
theorem decodeFrom_code {s : Byte} {cand c : Bits} (h : (s, cand ++ c) ∈ table) (hc : c ≠ [])
    (rest : Bits) (i start : Nat) (text : Bytes) :
    decodeFrom cap table (c ++ rest) i start cand text =
      if text.length = cap then .error (capacityError start)
      else decodeFrom cap table rest (i + c.length) (i + c.length) [] (text ++ [s]) := by
  induction c generalizing i cand with
  | nil => exact absurd rfl hc
  | cons b c ih =>
    rw [List.cons_append, decodeFrom]
    rcases eq_or_ne c [] with rfl | hne
    · rw [matchCode_of_mem hfree h]
      rfl
    · rw [List.append_cons] at h
      have hnone : ∀ e ∈ table, e.2 ≠ cand ++ [b] := fun e he heq => by
        obtain rfl := eq_of_code_prefix hfree he h (heq ▸ List.prefix_append _ _)
        exact hne (List.append_right_eq_self.1 heq)
      rw [matchCode_eq_none hnone, List.length_cons, Nat.add_comm c.length, ← Nat.add_assoc]
      exact ih h hne (i + 1)

variable (hlegal : codeLengthsLegal table = true)

include hlegal

/-- Bits are the codes of some symbols and a tail that no code begins. -/
theorem exists_codes_append_tail (bits : Bits) :
    ∃ text tail, bits = concatCodes table text ++ tail ∧ (∀ b ∈ text, codeOf table b ≠ []) ∧
      ∀ e ∈ table, ¬ e.2 <+: tail := by
  by_cases h : ∃ e ∈ table, e.2 <+: bits
  · obtain ⟨e, he, rest, rfl⟩ := h
    have hne := code_ne_nil hlegal he
    have hlt : rest.length < (e.2 ++ rest).length := by
      rw [List.length_append]
      exact Nat.lt_add_of_pos_left (List.length_pos_iff.2 hne)
    have hcode := codeOf_of_mem (prefixFree_iff.1 hfree).1 he
    obtain ⟨text, tail, hbits, htext, htail⟩ := exists_codes_append_tail rest
    refine ⟨e.1 :: text, tail, ?_, List.forall_mem_cons.2 ⟨hcode ▸ hne, htext⟩, htail⟩
    rw [concatCodes, List.flatMap_cons, hcode, List.append_assoc, ← concatCodes, ← hbits]
  · exact ⟨[], bits, rfl, fun _ hb => (List.not_mem_nil hb).elim, fun e he hp => h ⟨e, he, hp⟩⟩
termination_by bits.length

omit hlegal

/-- The codes of a text that OUT has room for are emitted as the text (R270, R271). -/
theorem decodeFrom_concatCodes {text : Bytes} (htext : ∀ b ∈ text, codeOf table b ≠ []) (rest : Bits)
    (i : Nat) {done : Bytes} (hcap : done.length + text.length ≤ cap) :
    decodeFrom cap table (concatCodes table text ++ rest) i i [] done =
      decodeFrom cap table rest (i + (concatCodes table text).length)
        (i + (concatCodes table text).length) [] (done ++ text) := by
  induction text generalizing i done with
  | nil => rw [List.append_nil]; rfl
  | cons s text ih =>
    obtain ⟨hs, htext⟩ := List.forall_mem_cons.1 htext
    have hmem := mem_of_codeOf_ne_nil (prefixFree_iff.1 hfree).1 hs
    rw [List.length_cons] at hcap
    rw [concatCodes, List.flatMap_cons, List.append_assoc, ← concatCodes,
      decodeFrom_code hfree hmem hs, if_neg (by omega),
      ih htext _ (by rw [List.length_append, List.length_singleton]; omega), List.length_append,
      Nat.add_assoc, List.append_assoc]
    rfl

section

variable {text : Bytes} (htext : ∀ b ∈ text, codeOf table b ≠ [])

include htext

/-- Behind a text that fits OUT, a tail that no code begins is truncated, and no tail is the end (R271, R272). -/
theorem decodeBits_codes_tail (hcap : text.length ≤ cap) {tail : Bits}
    (htail : ∀ e ∈ table, ¬ e.2 <+: tail) :
    decodeBits cap table (concatCodes table text ++ tail) =
      if tail = [] then .ok text else .error (truncatedAt (concatCodes table text).length) := by
  rw [decodeBits, decodeFrom_concatCodes hfree htext _ _ (by simpa using hcap), decodeFrom_tail htail,
    Nat.zero_add]
  rfl

/-- The codes of a text that fits OUT are decoded to it (R270, R271). -/
theorem decodeBits_concatCodes (hlegal : codeLengthsLegal table = true) (hcap : text.length ≤ cap) :
    decodeBits cap table (concatCodes table text) = .ok text := by
  simpa using decodeBits_codes_tail hfree htext hcap (not_code_prefix_nil hlegal)

/-- Behind a text that fills OUT, one more code is an overflow (R273). -/
theorem decodeBits_codes_overflow (hcap : text.length = cap) {e : Byte × Bits} (he : e ∈ table)
    (hne : e.2 ≠ []) (rest : Bits) :
    decodeBits cap table (concatCodes table text ++ (e.2 ++ rest)) =
      .error (capacityError (concatCodes table text).length) := by
  rw [decodeBits, decodeFrom_concatCodes hfree htext _ _ (by simpa using hcap.le),
    decodeFrom_code hfree he hne, List.nil_append, if_pos hcap, Nat.zero_add]

end

end

end Sys2Proof.Machine

namespace Sys2Proof.Proofs

open Sys2Proof.Machine

/-- Settles O57: the bits' symbols either fit OUT, and the tail decides, or the first that does not fit is the
error. -/
theorem decoderOutcomes : Obligations.DecoderOutcomes := by
  intro cap table bits hfree hlegal
  obtain ⟨text, tail, rfl, htext, htail⟩ := exists_codes_append_tail hfree hlegal bits
  rcases Nat.lt_or_ge cap text.length with hlt | hle
  · -- the symbol at index OUT_CAP does not fit
    obtain ⟨done, s, more, rfl, hdone⟩ : ∃ done s more, text = done ++ s :: more ∧ done.length = cap :=
      ⟨text.take cap, text[cap], text.drop (cap + 1), by simp, by simpa using hlt.le⟩
    obtain ⟨htext, hs, -⟩ := List.forall_mem_append.1 htext |>.imp_right List.forall_mem_cons.1
    have hmem := mem_of_codeOf_ne_nil (prefixFree_iff.1 hfree).1 hs
    have hbits : concatCodes table (done ++ s :: more) ++ tail =
        concatCodes table done ++ (codeOf table s ++ (concatCodes table more ++ tail)) := by
      simp [concatCodes]
    rw [hbits, decodeBits_codes_overflow hfree htext hdone hmem hs]
    exact ⟨done, _, rfl, htext, rfl, .inr ⟨rfl, hdone, _, hmem,
      List.isPrefixOf_iff_prefix.2 (List.prefix_append _ _)⟩⟩
  · rw [decodeBits_codes_tail hfree htext hle htail]
    split_ifs with hend
    · exact ⟨hle, by rw [hend, List.append_nil], htext⟩
    · exact ⟨text, tail, rfl, htext, rfl, .inl ⟨rfl, hle, hend, fun p hp =>
        Bool.eq_false_iff.2 fun h => htail p hp (List.isPrefixOf_iff_prefix.1 h)⟩⟩

/-- Settles O58: a symbol of the table has its code, so the text's codes are decoded to it. -/
theorem decodeOfConcatenation : Obligations.DecodeOfConcatenation := by
  intro cap table text hfree hlegal htext hcap
  refine decodeBits_concatCodes hfree (fun b hb => ?_) hlegal hcap
  obtain ⟨c, hc⟩ := htext b hb
  rw [codeOf_of_mem (prefixFree_iff.1 hfree).1 hc]
  exact code_ne_nil hlegal hc

end Sys2Proof.Proofs
end

section
/-! PROOFS. The tree-traversal decoder. A place of the trie tells what the codes are to the bits that lead there, so
the walk and the table match go together bit by bit (46_decoder.md rule R274). -/

namespace Sys2Proof.Machine

/-! ## The place that bits lead to -/

/-- The place below `t` that the bits lead to. -/
def trieAt (t : Trie) (p : Bits) : Trie := p.foldl trieChild t

@[simp] theorem trieAt_nil (t : Trie) : trieAt t [] = t := rfl

@[simp] theorem trieAt_cons (t : Trie) (b : Bool) (p : Bits) :
    trieAt t (b :: p) = trieAt (trieChild t b) p := rfl

theorem trieAt_concat (t : Trie) (p : Bits) (b : Bool) :
    trieAt t (p ++ [b]) = trieChild (trieAt t p) b :=
  List.foldl_concat ..

theorem trieAt_missing (p : Bits) : trieAt .missing p = .missing := by
  induction p with
  | nil => rfl
  | cons b p ih => exact ih

/-! ## Insertion of a code -/

section

variable (s : Byte) (t : Trie)

@[simp] theorem trieChild_trieInsert (a b : Bool) (c : Bits) :
    trieChild (trieInsert s (a :: c) t) b =
      if b = a then trieInsert s c (trieChild t a) else trieChild t b := by
  cases a <;> cases b <;> rfl

theorem trieAt_trieInsert_self (c : Bits) : trieAt (trieInsert s c t) c = .leaf s := by
  induction c generalizing t with
  | nil => rfl
  | cons a c ih => simpa using ih (trieChild t a)

/-- On the way to an inserted code there are inner nodes. -/
theorem trieAt_trieInsert_before {p c : Bits} (h : p <+: c) (hne : p ≠ c) :
    ∃ zero one, trieAt (trieInsert s c t) p = .node zero one := by
  induction p generalizing c t with
  | nil =>
    obtain ⟨a, c, rfl⟩ := List.exists_cons_of_ne_nil hne.symm
    cases a <;> exact ⟨_, _, rfl⟩
  | cons b p ih =>
    obtain ⟨c, rfl, hp⟩ := List.cons_prefix_iff.1 h
    simpa using ih (trieChild t b) hp (by simpa using hne)

/-- Below an inserted code there is nothing, and beside it nothing changes. -/
theorem trieAt_trieInsert_of_not_prefix {p c : Bits} (h : ¬ p <+: c) :
    trieAt (trieInsert s c t) p = if c <+: p then .missing else trieAt t p := by
  induction p generalizing c t with
  | nil => exact absurd List.nil_prefix h
  | cons b p ih =>
    cases c with
    | nil => rw [if_pos List.nil_prefix, trieInsert, trieAt_cons, trieChild, trieAt_missing]
    | cons a c =>
      rw [trieAt_cons, trieChild_trieInsert]
      by_cases hab : b = a
      · subst hab
        rw [if_pos rfl, ih _ (by simpa using h)]
        simp
      · rw [if_neg hab, if_neg (by simp [Ne.symm hab]), trieAt_cons]

end

/-! ## The trie of a table -/

/-- What a place says of the bits that lead to it: a leaf that they are its symbol's code, an inner node that they
begin a longer code, and a missing node that they begin none. -/
def placeAgrees (table : CodeList) (p : Bits) : Trie → Prop
  | .missing => ∀ e ∈ table, ¬ p <+: e.2
  | .leaf s => (s, p) ∈ table
  | .node _ _ => ∃ e ∈ table, p <+: e.2 ∧ p ≠ e.2

/-- A code that the bits do not begin changes nothing that a place says of them. -/
theorem placeAgrees_concat {table : CodeList} {p : Bits} {place : Trie} (h : placeAgrees table p place)
    {s : Byte} {c : Bits} (hp : ¬ p <+: c) : placeAgrees (table ++ [(s, c)]) p place := by
  cases place with
  | missing => exact List.forall_mem_append.2 ⟨h, List.forall_mem_singleton.2 hp⟩
  | leaf s' => exact List.mem_append_left _ h
  | node zero one =>
    obtain ⟨e, he, hpe⟩ := h
    exact ⟨e, List.mem_append_left _ he, hpe⟩

/-- A code that joins a table joins its trie. -/
theorem placeAgrees_insert {table : CodeList} {t : Trie} {s : Byte} {c : Bits}
    (hfit : fitsTable table s c) {p : Bits} (h : placeAgrees table p (trieAt t p)) :
    placeAgrees (table ++ [(s, c)]) p (trieAt (trieInsert s c t) p) := by
  have hnew : (s, c) ∈ table ++ [(s, c)] := List.mem_concat_self
  by_cases hp : p <+: c
  · rcases eq_or_ne p c with rfl | hne
    · rw [trieAt_trieInsert_self]
      exact hnew
    · obtain ⟨zero, one, hnode⟩ := trieAt_trieInsert_before s t hp hne
      rw [hnode]
      exact ⟨_, hnew, hp, hne⟩
  · rw [trieAt_trieInsert_of_not_prefix s t hp]
    split_ifs with hc
    · exact placeAgrees_concat (place := .missing) (fun e he hpe =>
        (prefixConflict_eq_false_iff.1 (hfit e he).2).2 (hc.trans hpe)) hp
    · exact placeAgrees_concat h hp

/-- Every place of a table's trie agrees with the table (R274). -/
theorem placeAgrees_trieOf {table : CodeList} (hfree : prefixFree table = true) (p : Bits) :
    placeAgrees table p (trieAt (trieOf table) p) := by
  induction table using List.reverseRecOn with
  | nil =>
    rw [trieOf, List.foldl_nil, trieAt_missing]
    exact fun _ he => (List.not_mem_nil he).elim
  | append_singleton table e ih =>
    obtain ⟨hfree, hfit⟩ := prefixFree_append_singleton.1 hfree
    rw [trieOf, List.foldl_concat]
    exact placeAgrees_insert hfit (ih hfree)

/-! ## The walk (R274) -/

/-- From the place that the candidate leads to, the walk answers what the table match answers. -/
theorem trieWalk_eq_decodeFrom {cap : Nat} {table : CodeList} (hfree : prefixFree table = true)
    (hlegal : codeLengthsLegal table = true) {cand : Bits} (hcand : ∀ e ∈ table, ¬ e.2 <+: cand)
    (bits : Bits) (i start : Nat) (text : Bytes) :
    trieWalk cap (trieOf table) bits i start (trieAt (trieOf table) cand) (decide (cand ≠ [])) text =
      decodeFrom cap table bits i start cand text := by
  induction bits generalizing cand i start text with
  | nil => by_cases h : cand = [] <;> simp [trieWalk, decodeFrom, h]
  | cons b bs ih =>
    have hplace := placeAgrees_trieOf hfree (cand ++ [b])
    rw [trieWalk, ← trieAt_concat]
    generalize hat : trieAt (trieOf table) (cand ++ [b]) = place at hplace ⊢
    cases place with
    | missing =>
      have hnone : ∀ e ∈ table, ¬ e.2 <+: cand ++ b :: bs := fun e he h => by
        rw [List.append_cons] at h
        rcases List.prefix_or_prefix_of_prefix h (List.prefix_append (cand ++ [b]) bs) with hpre | hpre
        · rcases List.prefix_concat_iff.1 hpre with heq | hpre
          · exact hplace e he (heq ▸ List.prefix_refl _)
          · exact hcand e he hpre
        · exact hplace e he hpre
      rw [decodeFrom_tail hnone, if_neg (List.append_ne_nil_of_right_ne_nil _ (List.cons_ne_nil _ _))]
    | leaf s =>
      rw [decodeFrom, matchCode_of_mem hfree hplace]
      simp only [← ih (not_code_prefix_nil hlegal)]
      rfl
    | node zero one =>
      obtain ⟨e, he, hpre, hne⟩ := hplace
      have hnone : ∀ f ∈ table, ¬ f.2 <+: cand ++ [b] := fun f hf h => by
        obtain rfl := eq_of_code_prefix hfree hf he (h.trans hpre)
        exact hne (hpre.eq_of_length_le h.length_le)
      have hih := ih hnone (i + 1) start text
      rw [hat, decide_eq_true (List.append_ne_nil_of_right_ne_nil _ (List.cons_ne_nil _ _))] at hih
      rw [decodeFrom, matchCode_eq_none fun f hf heq => hnone f hf (heq ▸ List.prefix_refl _)]
      exact hih

end Sys2Proof.Machine

namespace Sys2Proof.Proofs

open Sys2Proof.Machine

/-- Settles O59: both decoders start with no candidate, at the root. -/
theorem trieDecoderAgrees : Obligations.TrieDecoderAgrees := fun _ _ bits hfree hlegal =>
  trieWalk_eq_decodeFrom hfree hlegal (not_code_prefix_nil hlegal) bits 0 0 []

end Sys2Proof.Proofs
end

section
/-! PROOFS. The round trip of the whole block: DECODE of ENCODE's artifact (46_decoder.md rule R277). -/

namespace Sys2Proof.Machine

/-! ## ENCODE's artifact in IN -/

/-- ENCODE that records no error has encoded its input (R148, R301). -/
theorem encodeResult_of_no_error {s t : State} (h : exec .encode s = .next t) (he : t.error = 0) :
    ∃ e, encodeResult s = .ok e ∧ t = (s.storeEncoding e).succeed := by
  cases commandEnds_of_exec rfl h with
  | failed _ e => exact absurd he (errorCode_legal e.kind).2
  | encoded e hr => exact ⟨e, hr, rfl⟩

/-- An IN that holds what OUT shows of a stored byte string has it as input (R54, R101). -/
theorem input_eq_of_outByte {t u : State} {m : Memory} {bs : Bytes}
    (hout : t.outBuf = Memory.writeBytes m 0 bs) (hlen : t.outLen = BitVec.ofNat 32 bs.length)
    (hv : statusOutValid t.status = true) (hlt : bs.length < 2 ^ 32) (hin : u.inLen = t.outLen)
    (hcopy : ∀ j, j < t.outLen.toNat → t.outByte j = some (u.inByte j)) : u.input = bs := by
  have hn : t.outLen.toNat = bs.length := hlen ▸ toNat_ofNat_of_lt hlt
  refine State.input_eq_of_inByte (hin ▸ hn) fun j hj => ?_
  have hread := (stored_out hout hlen hv hlt).1 j hj
  rw [hcopy j (hn ▸ hj), Option.some_inj] at hread
  rw [hread, List.getD_eq_getElem _ _ hj]

theorem encodeText_bits_eq (text : Bytes) :
    (encodeText text).bits = concatCodes (encodeText text).codes text := by
  simp only [encodeText]

/-- DECODE's stages in turn (R151). -/
theorem decodeArtifact_of_stages {cap : Nat} {artifact text : Bytes} {h : Header}
    (hp : parseHeader artifact = .ok h)
    (hd : decodeBits cap h.table (unpack h.payload h.pad) = .ok text) :
    decodeArtifact cap artifact = .ok ⟨h, unpack h.payload h.pad, text⟩ := by
  simp only [decodeArtifact, hp, hd]

/-- DECODE's stages give an encoded text and its codes back (R227, R253, R271). -/
theorem decodeArtifact_encodeText {text : Bytes} {cap : Nat} (hne : text ≠ [])
    (hlen : text.length ≤ 2 ^ 20) (hcap : text.length ≤ cap) :
    ∃ d, decodeArtifact cap (encodeText text).artifact = .ok d ∧ d.text = text ∧
      codeTable d.header.table = codeTable (encodeText text).codes := by
  obtain ⟨hsyms, hcodes⟩ := encodeText_codes hne hlen
  have hfits : padLength (encodeText text).bits.length ≤ 8 * (encodeText text).payload.length := by
    rw [encodeText_payload_eq, pack_bit_count]
    exact Nat.le_add_left _ _
  obtain ⟨table, hparse, hcodeOf, htable⟩ := Sys2Proof.Proofs.headerRoundTrip text
    (encodeText text).payload _ hne hlen (padLength_le _) hfits
  obtain ⟨-, -, -, -, -, -, hfree, hlegal, -, -⟩ :=
    (Sys2Proof.Proofs.parserAcceptsTheGrammar _ _).1 hparse
  have hbits : unpack (encodeText text).payload (padLength (encodeText text).bits.length) =
      concatCodes table text := by
    rw [encodeText_payload_eq, Sys2Proof.Proofs.unpackOfPack, encodeText_bits_eq, concatCodes,
      concatCodes, funext hcodeOf]
  have htext : ∀ b ∈ text, codeOf table b ≠ [] := fun b hb => by
    rw [hcodeOf, ne_eq, codeOf_eq_nil_iff hsyms hcodes, not_not]
    exact hb
  have hdecoded := hbits ▸ decodeBits_concatCodes hfree htext hlegal hcap
  rw [← encodeText_header_eq] at hparse
  exact ⟨_, decodeArtifact_of_stages hparse hdecoded, rfl, htable⟩

end Sys2Proof.Machine

namespace Sys2Proof.Proofs

open Sys2Proof.Machine

/-- Settles O60: ENCODE that did not fail stored its artifact, so DECODE's input is that artifact, and its stages
undo ENCODE's. -/
theorem codecRoundTrip : Obligations.CodecRoundTrip := by
  intro s t u h1 hin hout hexec herr hparams hcap hlen hcopy
  obtain ⟨e, hok, rfl⟩ := encodeResult_of_no_error hexec herr
  obtain ⟨-, -, hfit, he⟩ := (encodeResult_ok_iff s e).1 hok
  have hincap := s.params.inCap_bounds
  have houtcap := s.params.outCap_bounds
  have htext := s.input_length
  rw [← he] at hfit
  have hinput : u.input = e.artifact :=
    input_eq_of_outByte (t := (s.storeEncoding e).succeed) rfl rfl (by simp) (by omega) hlen hcopy
  obtain ⟨d, hd, hdtext, hdcode⟩ := decodeArtifact_encodeText (text := s.input)
    (cap := u.params.outCap) (List.ne_nil_of_length_pos (by omega)) (by omega)
    (by rw [hparams]; omega)
  rw [← he] at hd hdcode
  have hres : decodeResult u = .ok d := by
    rw [decodeResult, if_neg (Nat.not_lt.2 (hlen ▸ hcap)), hinput, hd]
  have hread := (stored_out (t := (u.storeDecoding d).succeed) rfl rfl (by simp)
    (show d.text.length < 2 ^ 32 by rw [hdtext]; omega)).1
  rw [hdtext] at hread
  refine ⟨_, exec_decode_ok hres, rfl, ?_, fun k hk => ?_, hdcode⟩
  · show BitVec.ofNat 32 d.text.length = s.inLen
    rw [hdtext, htext, BitVec.ofNat_toNat, BitVec.setWidth_eq]
  · rw [hread k (htext ▸ hk)]
    simp [State.input]

end Sys2Proof.Proofs
end

section
/-! PROOFS. The fault mark: what a transaction does to it, and that it stays until a reset (60_exceptions.md rule
R303). -/

namespace Sys2Proof.Machine

/-- A mapped write keeps the fault mark, whatever it stores (R141). -/
theorem writeRegion_hostFault (s : State) (data : Word) (r : Region) :
    (s.writeRegion data r).hostFault = s.hostFault := by
  obtain ⟨-, hw⟩ | ⟨-, hw⟩ | ⟨k, -, hw⟩ | hw := writeRegion_cases s data r <;> rw [hw] <;> rfl

/-- A transaction keeps the fault mark, or sets it and is answered SLVERR (R143, R144, R303). -/
theorem execTxn_hostFault {x : Txn} {s t : State} (h : exec x.instr s = .next t) :
    t.hostFault = s.hostFault ∨ t.hostFault = true ∧ ∃ d, t.response = some ⟨.slverr, d⟩ := by
  cases x with
  | read32 off =>
    obtain ⟨he, -⟩ | ⟨r, -, -, he⟩ := execRead32_cases off s
    · cases he.symm.trans h
      exact .inr ⟨s.refuseRead_hostFault, _, s.refuseRead_response⟩
    · obtain ⟨d, n, hd⟩ := readRegion_frame s r
      cases (hd ▸ he).symm.trans h
      exact .inl rfl
  | write32 off data =>
    obtain ⟨he, -⟩ | ⟨r, -, -, he⟩ := execWrite32_cases off data s
    · cases he.symm.trans h
      exact .inr ⟨s.refuseWrite_hostFault, _, s.refuseWrite_response⟩
    · cases he.symm.trans h
      exact .inl (writeRegion_hostFault s data r)

/-- A step clears the fault mark by a reset, keeps it, or sets it with an SLVERR answer (R303). -/
theorem step_hostFault {s t : State} (h : step s = .next t) :
    (∃ es, s.pending = .reset :: es) ∧ t.hostFault = false ∨ t.hostFault = s.hostFault ∨
      t.hostFault = true ∧ ∃ d, t.response = some ⟨.slverr, d⟩ := by
  obtain ⟨-, -, he⟩ | ⟨w, -, -, he⟩ | ⟨x, es, k, -, -, he⟩ | ⟨es, k, hp, -, he⟩ := step_cases s
  · cases he.symm.trans h
    exact .inr (.inl rfl)
  · have hends := commandEnds_of_exec (commandWord_decodeCommand w) (he.symm.trans h)
    obtain ⟨-, -, -, -, -, hfault, -⟩ := hends.frame
    exact .inr (.inl hfault)
  · exact .inr (execTxn_hostFault (s := { s with pending := es, engineWait := k }) (he.symm.trans h))
  · cases he.symm.trans h
    exact .inl ⟨⟨es, hp⟩, State.applyReset_hostFault _⟩

end Sys2Proof.Machine

namespace Sys2Proof.Proofs

open Sys2Proof.Machine

/-- Settles O16: of the three things a step does to the fault mark, only the reset clears it, and only the SLVERR
answer sets it. -/
theorem hostFaultIsSticky : Obligations.HostFaultIsSticky := by
  intro s t h
  obtain ⟨⟨es, hp⟩, hclear⟩ | hkeep | ⟨hset, hresp⟩ := step_hostFault h
  · exact ⟨fun _ hreset => absurd hp (hreset es), fun _ hf => by simp [hclear] at hf⟩
  · exact ⟨fun hs _ => hkeep.trans hs, fun hs hf => by simp [hkeep, hs] at hf⟩
  · exact ⟨fun _ _ => hset, fun _ _ => hresp⟩

end Sys2Proof.Proofs
end

section
/-! PROOFS. That every step answers, what a reset leaves, and how long results stay (70_reset_and_hazards.md rules
R320, R321, R327, R328, R331). -/

namespace Sys2Proof.Machine

/-! ## Nothing stops the block (R331) -/

theorem exec_answers_next (i : Instr) (s : State) : ∃ t, exec i s = .next t := by
  have command (hi : (commandWord i).isSome = true) : ∃ t, exec i s = .next t :=
    (execCommand_ends s hi).imp fun _ h => h.1
  cases i with
  | encode => exact command rfl
  | decode => exact command rfl
  | clear => exact command rfl
  | illegal w => exact command rfl
  | read32 off => exact (execRead32_ends off s).imp fun _ h => h.1
  | write32 off data => exact (execWrite32_ends off data s).imp fun _ h => h.1

theorem step_answers_next (s : State) : ∃ t, step s = .next t := by
  obtain ⟨-, -, he⟩ | ⟨w, -, -, he⟩ | ⟨x, es, k, -, -, he⟩ | ⟨es, k, -, -, he⟩ := step_cases s
  · exact ⟨_, he⟩
  · exact he ▸ exec_answers_next _ _
  · exact he ▸ exec_answers_next _ _
  · exact ⟨_, he⟩

/-! ## What a reset leaves (R320) -/

section

variable (p : Params) (epoch draws : Nat) (es : List Event)

/-- After a reset the registers read 0, the three constants of R34 apart. -/
theorem State.afterReset_reg {r : Reg} (hin : r ≠ .inCap) (hout : r ≠ .outCap) (hid : r ≠ .ident) :
    (State.afterReset p epoch draws es).reg r = 0 := by
  cases r
  case inCap => exact absurd rfl hin
  case outCap => exact absurd rfl hout
  case ident => exact absurd rfl hid
  all_goals rfl

/-- After a reset OUT holds no byte. -/
theorem State.afterReset_outByte (j : Nat) : (State.afterReset p epoch draws es).outByte j = none :=
  ite_self none

end

/-- The IN_CAP register is wide enough for the capacity (R7, R48). -/
theorem State.reg_inCap_toNat (s : State) : (s.reg .inCap).toNat = s.params.inCap := by
  have hcap := s.params.inCap_bounds
  exact toNat_ofNat_of_lt (by omega)

/-- The OUT_CAP register is wide enough for the capacity (R7, R48). -/
theorem State.reg_outCap_toNat (s : State) : (s.reg .outCap).toNat = s.params.outCap := by
  have hcap := s.params.outCap_bounds
  exact toNat_ofNat_of_lt (by omega)

/-- A reset at the front of the queue is taken, if the block is IDLE or still waits for the engine (R321). -/
theorem step_of_reset {s : State} {es : List Event} (hp : s.pending = .reset :: es)
    (hw : s.phase = .idle ∨ s.engineWait ≠ 0) :
    ∃ k, step s = .next ({ s with pending := es, engineWait := k } : State).applyReset := by
  obtain ⟨-, hnil, -⟩ | ⟨w, hb, hdue, -⟩ | ⟨x, es', k, hp', -, -⟩ | ⟨es', k, hp', -, he⟩ := step_cases s
  · simp [hp] at hnil
  · obtain hi | hk := hw
    · simp [hb] at hi
    · simp [hp, hk] at hdue
  · simp [hp] at hp'
  · obtain rfl : es = es' := by simpa [hp] using hp'
    exact ⟨k, he⟩

/-! ## How long results stay (R327, R328) -/

/-- Of the things a transaction can do, only the acceptance of a command touches results, and it leaves the block
BUSY (R145). -/
theorem TxnEnds.sameResults {s t : State} (h : TxnEnds s t) (ht : t.phase = .idle) : sameResults s t := by
  cases h with
  | answered f r n => exact sameResults_refl s
  | accepted w => simp at ht
  | inLenStored data => exact sameResults_refl s
  | inStored k data hk => exact sameResults_refl s

end Sys2Proof.Machine

namespace Sys2Proof.Proofs

open Sys2Proof.Machine

/-- Settles O17: an IDLE block waits or serves a transaction, and the transaction is not an acceptance. -/
theorem resultsStayUntilNextCommand : Obligations.ResultsStayUntilNextCommand := by
  intro s t hs h ht hreset
  obtain ⟨-, -, he⟩ | ⟨w, hb, -, -⟩ | ⟨x, es, k, -, -, he⟩ | ⟨es, k, hp, -, -⟩ := step_cases s
  · cases he.symm.trans h
    exact sameResults_refl s
  · simp [hs] at hb
  · obtain ⟨t', hx, hends⟩ := execTxn_ends x { s with pending := es, engineWait := k }
    cases (he.trans hx).symm.trans h
    exact hends.sameResults ht
  · exact absurd hp (hreset es)

/-- Settles O9: commands and transactions answer in every state, and a step is one of them, a wait or a reset. -/
theorem everyStepAnswersNext : Obligations.EveryStepAnswersNext :=
  ⟨step_answers_next, exec_answers_next⟩

/-- Settles O12: reset is R320's state with the configured capacities. -/
theorem resetMeetsInvariant : Obligations.ResetMeetsInvariant :=
  State.afterReset_inv Config.params 0 0 []

/-- Settles O13: R320's registers and OUT, and the capacities in their registers. -/
theorem resetState : Obligations.ResetState :=
  ⟨rfl, rfl, fun _ => State.afterReset_reg _ _ _ _, rfl, State.reg_inCap_toNat _,
    State.reg_outCap_toNat _, State.afterReset_outByte _ _ _ _⟩

/-- Settles O14: the reset is taken before the engine step, and leaves R320's state with the capacities and the
later events of the old one. -/
theorem resetAbandonsCommand : Obligations.ResetAbandonsCommand := by
  intro s es hp hw
  obtain ⟨k, he⟩ := step_of_reset hp hw
  exact ⟨_, he, rfl, rfl, rfl, rfl, State.afterReset_outByte _ _ _ _,
    fun _ => State.afterReset_reg _ _ _ _⟩

end Sys2Proof.Proofs
end
